-- ==== Sys2Proof/Word.lean ====
section
/-! DEFINITION. The word types of CORE: spec/00_scope.md rules R9, R12, R13.

Every data value is a bit string in the ONE order of R13: stream bit `k` of `s : BitVec n` is
`s.getMsbD k`, so stream bit 0 is the most significant bit, and `s.toNat` is `num(s)` of R14. -/

namespace Sys2Proof

/-- R12: a byte, an unsigned integer 0 to 255. -/
abbrev Byte := BitVec 8

/-- R75: a block, 8 bytes (64 bits), as it stands on a data port (R74: port bit `63 - k` is stream bit `k`). -/
abbrev Block := BitVec 64

/-- R75: a key, 8 bytes (64 bits), as it stands on `key_in`. -/
abbrev Key := BitVec 64

/-- R77: a half of the working register, 4 bytes (32 bits). -/
abbrev Half := BitVec 32

/-- R76: the key register `CD`, 7 bytes (56 bits), `C` first. -/
abbrev KeyReg := BitVec 56

/-- R111: one independently rotated half of the key register, 28 bits. -/
abbrev HalfKey := BitVec 28

/-- R77: a round subkey, and every other 48-bit value of a round, 6 bytes. -/
abbrev Subkey := BitVec 48

/-- R73: a declared length in bytes, `LENW` = 4 bits. -/
abbrev LenField := BitVec 4

end Sys2Proof
end

