-- ==== Sys2Proof/Machine/Bits.lean ====
section
/-! DEFINITION. The byte and bit utilities, the XOR mixer and the bit-permutation primitive
(spec/40_bit_primitives.md), with the error values of the generic units (spec/60_exceptions.md R180,
R187). -/

namespace Sys2Proof.Machine

/-! ## Bit strings (R13 to R15) -/

/-- R13: `s{a}, …, s{a+len-1}` of a bit string of `n` bits, for `a + len ≤ n`. -/
def streamSlice {n : Nat} (s : BitVec n) (a len : Nat) : BitVec len := s.extractLsb' (n - (a + len)) len

/-- R13: the bits of a byte sequence in stream order. -/
def bitsOfBytes (b : List Byte) : List Bool :=
  b.flatMap fun x => (List.range 8).map fun k => x.getMsbD k

/-- The byte sequence whose bit string is the given one; bits after the last whole byte are left out. -/
def bytesOfBits : List Bool → List Byte
  | b0 :: b1 :: b2 :: b3 :: b4 :: b5 :: b6 :: b7 :: rest =>
    BitVec.ofBoolListBE [b0, b1, b2, b3, b4, b5, b6, b7] :: bytesOfBits rest
  | _ => []

/-- R14: `num` of a byte sequence, the big-endian value. -/
def numOfBytes (b : List Byte) : Nat := b.foldl (fun acc x => 256 * acc + x.toNat) 0

/-- R13: a byte sequence as a bit string of `n` bits. -/
def vecOfBytes (n : Nat) (b : List Byte) : BitVec n := BitVec.ofNat n (numOfBytes b)

/-- R13: the `len` bytes of a bit string of `8 * len` bits, byte 0 first. -/
def bytesOfVec {n : Nat} (len : Nat) (v : BitVec n) : List Byte :=
  (List.range len).map fun m => streamSlice v (8 * m) 8

/-! ## Outcomes of the generic units -/

/-- R180: the error classes with the information each carries. -/
inductive UnitError where
  /-- R181 -/
  | sizeMismatch (expected actual : Nat)
  /-- R182 -/
  | lengthMismatch (lenA lenB : Nat)
  /-- R183: the largest entry of the table, the source's length in bits -/
  | rangeError (maxEntry sourceBits : Nat)
  /-- R184 -/
  | lengthError (actual : Nat)
  deriving DecidableEq, Repr

/-- What the spec refuses outright: "it has no result and no error code"
(spec/93_implementation_defined.md U2 to U4). -/
inductive UnitRefusal where
  /-- U2, R95: the table's length is not a multiple of 8 -/
  | partialByteTable
  /-- U3, R78: an entry is 0, which is no position -/
  | entryZero
  /-- U4, R90: a bit number past the end of the sequence -/
  | bitPastEnd
  deriving DecidableEq, Repr

/-- R187: a pure unit returns its result or the error value instead of it, and changes no state. -/
inductive UnitOutcome (α : Type) where
  | result (a : α)
  | error (e : UnitError)
  | refused (r : UnitRefusal)
  deriving DecidableEq, Repr

/-! ## Single-bit utilities (R90 to R92) -/

/-- R90: `GETBIT(b, k) = (b[k div 8] >> (7 - (k mod 8))) & 1`, 0 or 1. -/
def getBit (b : List Byte) (k : Nat) : UnitOutcome (BitVec 1) :=
  if k < 8 * b.length then .result ((b.getD (k / 8) 0 >>> (7 - k % 8)).setWidth 1)
  else .refused .bitPastEnd

/-- R91: `SETBIT(b, k)`. -/
def setBit (b : List Byte) (k : Nat) : UnitOutcome (List Byte) :=
  if k < 8 * b.length then .result (b.set (k / 8) (b.getD (k / 8) 0 ||| 128#8 >>> (k % 8)))
  else .refused .bitPastEnd

/-- R92: `CLRBIT(b, k)`. -/
def clrBit (b : List Byte) (k : Nat) : UnitOutcome (List Byte) :=
  if k < 8 * b.length then .result (b.set (k / 8) (b.getD (k / 8) 0 &&& ~~~(128#8 >>> (k % 8))))
  else .refused .bitPastEnd

/-! ## The XOR mixer (R93) -/

/-- R93: `XORB(a, b)` on byte sequences; LengthMismatch when the lengths differ (R182). -/
def xorBytes (a b : List Byte) : UnitOutcome (List Byte) :=
  if a.length = b.length then .result (List.zipWith (· ^^^ ·) a b)
  else .error (.lengthMismatch a.length b.length)

/-! ## The bit-permutation primitive (R94 to R96) -/

/-- R94: `PERMUTE(s, T)`, `out{i} = s{T[i] - 1}`, on a bit string of any length. Outside R94's precondition
`1 ≤ T[i] ≤ S` what an output bit reads is the model's choice (DESIGN CHOICE, log entry 14): an entry 0
reads stream bit 0, as position 1 does, and an entry past the source reads 0. -/
def permuteList (s : List Bool) (t : List Nat) : List Bool := t.map fun q => s.getD (q - 1) false

/-- R94, R96: `PERMUTE` as a wiring network of `out` output wires, for a table of `out` entries. DESIGN
CHOICE, log entry 14: an entry 0 (no position, R78) reads stream bit 0, as position 1 does; an entry past
the source reads 0; a table of another length leaves its last `out` entries, or zeros before its own. -/
def permuteNet {src : Nat} (out : Nat) (s : BitVec src) (t : List Nat) : BitVec out :=
  (BitVec.ofBoolListBE (t.map fun q => s.getMsbD (q - 1))).setWidth out

/-- R95: `permute(b, T)` on byte sequences. An entry 0 makes `t` no table at all (R78, U3); RangeError
is checked over ALL entries before any output and carries the largest (R183); a table whose length is
no multiple of 8 is refused (U2). The order of the first two checks is the model's, log entry 12. -/
def permuteBytes (b : List Byte) (t : List Nat) : UnitOutcome (List Byte) :=
  if t.any (· == 0) then .refused .entryZero
  else if t.any (fun q => 8 * b.length < q) then .error (.rangeError (t.foldl max 0) (8 * b.length))
  else if t.length % 8 ≠ 0 then .refused .partialByteTable
  else .result (bytesOfBits (permuteList (bitsOfBytes b) t))

end Sys2Proof.Machine
end

