-- ==== Sys2Proof/Config.lean ====
section
/-! DEFINITION. What is fixed for one machine and is no state: the sizes of R9, the shape of the
constant tables (R42, R50), and the parameters the spec leaves open (R10). The VALUES of the tables
stand in Sys2Proof/Machine/Tables.lean. -/

namespace Sys2Proof

namespace Config

/-- R9: block length in bytes. -/
abbrev blockBytes : Nat := 8
/-- R9: input key length in bytes. -/
abbrev keyBytes : Nat := 8
/-- R9: length of the key register in bytes. -/
abbrev cdBytes : Nat := 7
/-- R9: width of each half of the key register. -/
abbrev halfKeyBits : Nat := 28
/-- R9: number of rounds, indexed 0 to 15. -/
abbrev rounds : Nat := 16
/-- R9: number of S-box tables. -/
abbrev nSbox : Nat := 8
/-- R9: entries of one S-box table. -/
abbrev sboxDepth : Nat := 64
/-- R9: bits of one S-box entry. -/
abbrev sboxWidth : Nat := 4
/-- R10, R73: width of the declared-length fields. -/
abbrev lenW : Nat := 4

/-- R10, R221 (D23): `STEP_CYCLES`, OPEN: clock cycles per step. No rule depends on it, and nothing in
the model reads it (log entry 13). -/
opaque stepCycles : Nat

end Config

/-- R150: the names of the ports; the core has these and no others. -/
inductive PortName where
  | rst | start | cmd | blockIn | keyIn | phase | result | errcode | errexp | erract
  deriving DecidableEq, Repr

/-- R10, R55 (D25): `HOST_MAP`, OPEN: where a platform puts the ports on a bus. No rule depends on it,
and nothing in the model reads it (log entry 13). -/
opaque Config.hostMap : PortName → Nat

/-- `TABLES` (R30, R42, R50): the fourteen constant tables. A permutation table is a list of
1-indexed bit positions (R42, R78); `sbox` holds `SBOX[0..7]`, each flat (R41). Which values are
admissible is `Tables.admissible` (R43). -/
structure Tables where
  /-- INITIAL_PERM_TABLE -/
  ip   : List Nat
  /-- FINAL_PERM_TABLE -/
  fp   : List Nat
  /-- KEY_PERM_TABLE_1 -/
  pc1  : List Nat
  /-- KEY_PERM_TABLE_2 -/
  pc2  : List Nat
  /-- INPUT_EXPANSION_TABLE -/
  e    : List Nat
  /-- FINAL_INPUT_PERM_TABLE -/
  p    : List Nat
  /-- the S-box ROM, one list per table -/
  sbox : List (List Nat)
  deriving DecidableEq, Repr

end Sys2Proof
end

