-- ==== Sys2Proof/Syntax.lean ====
section
/-! DEFINITION. The operations selected by bits (spec/30_encoding.md rule R85, one constructor per row
of spec/opcode_table.json) and the host-script lines of R86 and R87. -/

namespace Sys2Proof

/-- R72: "a two-case sum type, not a boolean flag". Its bit at the port is in Decode.lean. -/
inductive Mode where
  | encrypt
  | decrypt
  deriving DecidableEq, Repr

/-- R85: the complete list of operations that are selected by bits. -/
inductive Instr where
  /-- `ENC` (R151), format CMD: the declared lengths of block and key. -/
  | enc (blen klen : LenField)
  /-- `DEC` (R152), format CMD. -/
  | dec (blen klen : LenField)
  /-- `ROUND.E` (R154), format SEQ: the round counter `SEQ[4:0]`, 0 to 15. -/
  | roundE (rc : BitVec 5)
  /-- `ROUND.D` (R155), format SEQ. -/
  | roundD (rc : BitVec 5)
  /-- `FINISH` (R157), format SEQ: `SEQ[5]` may be either mode and is ignored. -/
  | finish (m : Mode)
  /-- `RESET` (R210), format PIN. -/
  | reset
  deriving DecidableEq, Repr

/-- R86, R87: one line of a host script, its operands byte sequences. -/
inductive HostLine where
  | enc (block key : List Byte)
  | dec (block key : List Byte)
  | wait
  | reset
  /-- R87: `RUN.E`, `ENC` then `WAIT`. -/
  | runE (block key : List Byte)
  /-- R87: `RUN.D`, `DEC` then `WAIT`. -/
  | runD (block key : List Byte)
  deriving DecidableEq, Repr

end Sys2Proof
end

