-- ==== Sys2Proof/WellFormed.lean ====
section
/-! DEFINITION. What a well-formed instruction, host-script line and table set is. -/

namespace Sys2Proof

/-- R81: `ROUND.E` and `ROUND.D` exist for `RC` in 0 to 15 only. R84 (a): every value of the two
length fields is an instruction, so the host commands carry no check. -/
def Instr.wellFormed : Instr → Bool
  | .enc _ _   => true
  | .dec _ _   => true
  | .roundE rc => rc.toNat < Config.rounds
  | .roundD rc => rc.toNat < Config.rounds
  | .finish _  => true
  | .reset     => true

/-- R86: an operand is a byte sequence of 0 to 15 bytes. -/
def operandWellFormed (b : List Byte) : Bool := b.length < 2 ^ Config.lenW

/-- R86: both operands of a command line are well formed. -/
def HostLine.wellFormed : HostLine → Bool
  | .enc b k  => operandWellFormed b && operandWellFormed k
  | .dec b k  => operandWellFormed b && operandWellFormed k
  | .wait     => true
  | .reset    => true
  | .runE b k => operandWellFormed b && operandWellFormed k
  | .runD b k => operandWellFormed b && operandWellFormed k

namespace Tables

/-- R43 (1): the lengths of the six permutation tables. -/
def lengthsOk (T : Tables) : Bool :=
  T.ip.length == 64 && T.fp.length == 64 && T.pc1.length == 56 && T.pc2.length == 48
    && T.e.length == 48 && T.p.length == 32

/-- R43 (2): every entry of `t` is a position of a source of `bits` bits (1-indexed, R78). -/
def positionsWithin (t : List Nat) (bits : Nat) : Bool := t.all fun q => 1 ≤ q && q ≤ bits

/-- R43 (2): the range of every permutation table. -/
def rangesOk (T : Tables) : Bool :=
  positionsWithin T.ip 64 && positionsWithin T.fp 64 && positionsWithin T.pc1 64
    && positionsWithin T.pc2 56 && positionsWithin T.e 32 && positionsWithin T.p 32

/-- R43 (3): at least 8 key bits are selected by no entry of PC1. -/
def dropsKeyBits (T : Tables) : Bool :=
  8 ≤ (List.range 64).countP fun k => !T.pc1.contains (k + 1)

/-- R43 (4): 16 positions occur twice in E, the other 16 once. -/
def expansionDuplicates (T : Tables) : Bool :=
  (List.range 32).countP (fun k => T.e.count (k + 1) == 2) == 16
    && (List.range 32).countP (fun k => T.e.count (k + 1) == 1) == 16

/-- R43 (5): eight S-box tables of 64 four-bit values. -/
def sboxOk (T : Tables) : Bool :=
  T.sbox.length == Config.nSbox
    && T.sbox.all fun t => t.length == Config.sboxDepth && t.all fun v => v < 2 ^ Config.sboxWidth

/-- R43 (6): `FP[IP[i]-1] = i+1` for `i` in 0 to 63, and IP is a bijection on 1..64 (64 entries in
range and no two equal). -/
def finalInvertsInitial (T : Tables) : Bool :=
  ((List.range 64).all fun i => T.fp.getD (T.ip.getD i 0 - 1) 0 == i + 1) && decide T.ip.Nodup

/-- R43 (7): IP satisfies the permutation fixture (spec/95_test_vectors.md section 1.1), whose table is
taken to be IP (spec/90_conflicts.md C6): `permute([170]*8, IP) = [0,0,0,0,255,255,255,255]`, and IP
applied to that gives `[240]*8`. -/
def meetsFixture (T : Tables) : Bool :=
  decide (Machine.permuteBytes (List.replicate 8 170#8) T.ip =
      .result [0#8, 0#8, 0#8, 0#8, 255#8, 255#8, 255#8, 255#8])
    && decide (Machine.permuteBytes [0#8, 0#8, 0#8, 0#8, 255#8, 255#8, 255#8, 255#8] T.ip =
      .result (List.replicate 8 240#8))

/-- R43 (1) to (7): `T` is an admissible value of `TABLES`. -/
def admissible (T : Tables) : Bool :=
  T.lengthsOk && T.rangesOk && T.dropsKeyBits && T.expansionDuplicates && T.sboxOk
    && T.finalInvertsInitial && T.meetsFixture

end Tables

end Sys2Proof
end

