-- ==== Sys2Proof/Machine/KeySchedule.lean ====
section
/-! DEFINITION. The key schedule (spec/41_key_schedule.md): the 56-bit key register, the rotation of its
two halves, subkey extraction, and the two traversal orders. All pure functions. -/

namespace Sys2Proof.Machine

/-- R110: `KINIT(key) = PERMUTE(key, PC1)`. -/
def kinit (T : Tables) (key : Key) : KeyReg := permuteNet 56 key T.pc1

/-- R111: `C = CD{0..27}`. -/
def cHalf (cd : KeyReg) : HalfKey := streamSlice cd 0 28

/-- R111: `D = CD{28..55}`. -/
def dHalf (cd : KeyReg) : HalfKey := streamSlice cd 28 28

/-- R112: `ROL1`, each half rotated left by one bit, by itself. -/
def rol1 (cd : KeyReg) : KeyReg := (cHalf cd).rotateLeft 1 ++ (dHalf cd).rotateLeft 1

/-- R113: `ROR1`, each half rotated right by one bit, by itself. -/
def ror1 (cd : KeyReg) : KeyReg := (cHalf cd).rotateRight 1 ++ (dHalf cd).rotateRight 1

/-- R114: `ROTAMT(mode, r)`: 1 bit for rounds {0, 1, 8, 15} when encrypting and for rounds {0, 7, 14}
(and all rounds ≥ 14) when decrypting; 2 bits for every other round. -/
def rotAmt : Mode → Nat → Nat
  | .encrypt, r => if r = 0 ∨ r = 1 ∨ r = 8 ∨ r = 15 then 1 else 2
  | .decrypt, r => if r = 0 ∨ r = 7 ∨ 14 ≤ r then 1 else 2

/-- R115: `ROTL(CD, n)`, `n` successive one-bit rotations. -/
def rotL (cd : KeyReg) : Nat → KeyReg
  | 0     => cd
  | n + 1 => rol1 (rotL cd n)

/-- R115: `ROTR(CD, n)`. -/
def rotR (cd : KeyReg) : Nat → KeyReg
  | 0     => cd
  | n + 1 => ror1 (rotR cd n)

/-- R121: the check of the generic rotate, made before anything is computed (R184). -/
def rotateBytes (f : KeyReg → KeyReg) (reg : List Byte) : UnitOutcome (List Byte) :=
  if reg.length = Config.cdBytes then .result (bytesOfVec 7 (f (vecOfBytes 56 reg)))
  else .error (.lengthError reg.length)

/-- R121: `ROL1` on a byte sequence. -/
def rol1Bytes (reg : List Byte) : UnitOutcome (List Byte) := rotateBytes rol1 reg

/-- R121: `ROR1` on a byte sequence. -/
def ror1Bytes (reg : List Byte) : UnitOutcome (List Byte) := rotateBytes ror1 reg

/-- R116: `SUBKEY(CD) = PERMUTE(CD, PC2)`. -/
def subkey (T : Tables) (cd : KeyReg) : Subkey := permuteNet 48 cd T.pc2

/-- R117: `KSTEP.E(r, CD)`: rotate left, THEN derive the subkey. -/
def kstepE (T : Tables) (r : Nat) (cd : KeyReg) : KeyReg × Subkey :=
  (rotL cd (rotAmt .encrypt r), subkey T (rotL cd (rotAmt .encrypt r)))

/-- R118: `KSTEP.D(r, CD)`: derive the subkey FIRST, THEN rotate right. -/
def kstepD (T : Tables) (r : Nat) (cd : KeyReg) : KeyReg × Subkey :=
  (rotR cd (rotAmt .decrypt r), subkey T cd)

/-- R117, R118: the schedule step of the active mode. -/
def kstep (T : Tables) : Mode → Nat → KeyReg → KeyReg × Subkey
  | .encrypt => kstepE T
  | .decrypt => kstepD T

end Sys2Proof.Machine
end

