-- ==== Sys2Proof/Machine/RoundFunction.lean ====
section
/-! DEFINITION. The Feistel round function (spec/42_round_function.md) and the S-box ROM it reads
(spec/20_memory.md R40, R41). All pure functions. -/

namespace Sys2Proof.Machine

/-- R41: the flat address of entry `i` of table `j`. -/
def romAddress (j i : Nat) : Nat := 64 * j + i

/-- R40, R41: the S-box ROM as one flat array of 512 four-bit entries. -/
def rom (T : Tables) : List (BitVec 4) := T.sbox.flatten.map (BitVec.ofNat 4)

/-- R17: `RomRead(j, i)`, the 4-bit entry `i` (0 to 63) of table `j` (0 to 7). DESIGN CHOICE, log entry 14: an
entry that a table set lacks reads 0, and one above 15 reads as its low four bits. -/
def romRead (T : Tables) (j i : Nat) : BitVec 4 := BitVec.ofNat 4 ((T.sbox.getD j []).getD i 0)

/-- R130: `EXPAND(R) = PERMUTE(R, E)`. -/
def expand (T : Tables) (r : Half) : Subkey := permuteNet 48 r T.e

/-- R131: `MIX(X, K)`, XORB on two 48-bit operands; the lengths are equal by type (R185). -/
def mix (x k : Subkey) : Subkey := x ^^^ k

/-- R79, R132: `i_j = num(X{6j..6j+5})`, the first bit the most significant. -/
def sboxIndex (x : Subkey) (j : Nat) : Nat := (streamSlice x (6 * j) 6).toNat

/-- R133: `s_j = RomRead(j, i_j)`. -/
def sboxOutput (T : Tables) (x : Subkey) (j : Nat) : BitVec 4 := romRead T j (sboxIndex x j)

/-- R80: output byte `i` is `(sbox[2i] << 4) | sbox[2i+1]`. -/
def packByte (hi lo : BitVec 4) : Byte := hi.setWidth 8 <<< 4 ||| lo.setWidth 8

/-- R134: `SUBST(X)`: index, look up, pack; four bytes, the first first. -/
def subst (T : Tables) (x : Subkey) : Half :=
  packByte (sboxOutput T x 0) (sboxOutput T x 1) ++ packByte (sboxOutput T x 2) (sboxOutput T x 3)
    ++ packByte (sboxOutput T x 4) (sboxOutput T x 5) ++ packByte (sboxOutput T x 6) (sboxOutput T x 7)

/-- R135: `PBOX(Y) = PERMUTE(Y, P)`. -/
def pbox (T : Tables) (y : Half) : Half := permuteNet 32 y T.p

/-- R136: `F(R, K)`, the four steps in order. -/
def roundF (T : Tables) (r : Half) (k : Subkey) : Half := pbox T (subst T (mix (expand T r) k))

end Sys2Proof.Machine
end

