-- ==== Sys2Proof/Machine/Cipher.lean ====
section
/-! DEFINITION. The transaction as one function (spec/43_orchestrator.md R159), stated beside the machine
and never called by it, so that the machine can be checked against it. -/

namespace Sys2Proof.Machine

/-- The values R159 carries from round to round. -/
structure Datapath where
  l  : Half
  r  : Half
  cd : KeyReg
  deriving DecidableEq, Repr

/-- R159: `L_0`, `R_0`, `CD_0`. -/
def cipherStart (T : Tables) (block : Block) (key : Key) : Datapath :=
  { l  := streamSlice (permuteNet 64 block T.ip) 0 32
    r  := streamSlice (permuteNet 64 block T.ip) 32 32
    cd := kinit T key }

/-- R159: one round, from `(L_r, R_r, CD_r)` to `(L_(r+1), R_(r+1), CD_(r+1))`. -/
def cipherRound (T : Tables) (mode : Mode) (r : Nat) (d : Datapath) : Datapath :=
  { l  := d.r
    r  := d.l ^^^ roundF T d.r (kstep T mode r d.cd).2
    cd := (kstep T mode r d.cd).1 }

/-- R159: `(L_n, R_n, CD_n)`. -/
def cipherRounds (T : Tables) (mode : Mode) (d : Datapath) : Nat → Datapath
  | 0     => d
  | n + 1 => cipherRound T mode n (cipherRounds T mode d n)

/-- R157, R159: the closing swap and the final permutation. -/
def cipherFinish (T : Tables) (l r : Half) : Block := permuteNet 64 (r ++ l) T.fp

/-- R159: `CIPHER` on operands of the right lengths. -/
def cipher (T : Tables) (block : Block) (key : Key) (mode : Mode) : Block :=
  cipherFinish T (cipherRounds T mode (cipherStart T block key) Config.rounds).l
    (cipherRounds T mode (cipherStart T block key) Config.rounds).r

/-- R119: the key register before round `r`, when KINIT loaded `cd`. -/
def keyRegAt (T : Tables) (mode : Mode) (cd : KeyReg) : Nat → KeyReg
  | 0     => cd
  | r + 1 => (kstep T mode r (keyRegAt T mode cd r)).1

/-- R119: `KE[r]` (Encrypt) or `KD[r]` (Decrypt), the subkey of round `r`, when KINIT loaded `cd`. -/
def roundSubkey (T : Tables) (mode : Mode) (cd : KeyReg) (r : Nat) : Subkey :=
  (kstep T mode r (keyRegAt T mode cd r)).2

/-- R159: `CIPHER` on byte sequences of any length; the block's length is checked first (R188). -/
def cipherBytes (T : Tables) (block key : List Byte) (mode : Mode) : UnitOutcome (List Byte) :=
  if block.length ≠ Config.blockBytes then .error (.sizeMismatch Config.blockBytes block.length)
  else if key.length ≠ Config.keyBytes then .error (.sizeMismatch Config.keyBytes key.length)
  else .result (bytesOfVec 8 (cipher T (vecOfBytes 64 block) (vecOfBytes 64 key) mode))

end Sys2Proof.Machine
end

