-- ==== Sys2Proof/Decode.lean ====
section
/-! DEFINITION. Decoding of the three control formats of spec/30_encoding.md (R70, R71, R81, R84), total
on any word and any bytes, and AFTER it the encoder, written from the same tables. -/

namespace Sys2Proof

/-! ## The mode bit -/

/-- R72: 0 = Encrypt, 1 = Decrypt. -/
def Mode.bit : Mode → BitVec 1
  | .encrypt => 0#1
  | .decrypt => 1#1

/-- R72, R84 (e): the field has one bit, so no other mode can be expressed. -/
def Mode.ofBit (b : BitVec 1) : Mode := if b = 0#1 then .encrypt else .decrypt

/-! ## Control words -/

/-- R70: the three control formats, each at its own width. -/
inductive ControlWord where
  /-- the host's command word, R71 -/
  | cmd (w : BitVec 9)
  /-- the word the sequencer decodes, R81 -/
  | seq (w : BitVec 8)
  /-- the reset input, R84 (d) -/
  | pin (rst : BitVec 1)
  deriving DecidableEq, Repr

/-- Why a word or a byte string is no instruction. -/
inductive DecodeError where
  /-- R81: `PHASE` is IDLE, DONE or ERROR: the sequencer has no step. -/
  | noSequencerStep
  /-- R84 (b): `PHASE = BUSY` and `RC` in 17 to 31 select nothing. -/
  | roundCounterOutOfRange
  /-- R84 (d): `rst = 0` selects nothing. -/
  | resetNotAsserted
  /-- the byte string is no word of any of the three formats. -/
  | notAControlWord
  deriving DecidableEq, Repr

/-- R71: `MODE = CMD[0]`, `BLEN = CMD[4:1]`, `KLEN = CMD[8:5]`; R84 (a): all 512 values decode. -/
def decodeCmd (w : BitVec 9) : Instr :=
  match Mode.ofBit (w.extractLsb' 0 1) with
  | .encrypt => .enc (w.extractLsb' 1 4) (w.extractLsb' 5 4)
  | .decrypt => .dec (w.extractLsb' 1 4) (w.extractLsb' 5 4)

/-- R81: a word `w` selects a row when `(w & mask) = match`. -/
def decodeSeq (w : BitVec 8) : Except DecodeError Instr :=
  if w &&& 0xF0#8 = 0x40#8 then .ok (.roundE (w.extractLsb' 0 5))
  else if w &&& 0xF0#8 = 0x60#8 then .ok (.roundD (w.extractLsb' 0 5))
  else if w &&& 0xDF#8 = 0x50#8 then .ok (.finish (Mode.ofBit (w.extractLsb' 5 1)))
  else if w.extractLsb' 6 2 = 1#2 then .error .roundCounterOutOfRange
  else .error .noSequencerStep

/-- R84 (d): `rst = 1` selects `RESET`. -/
def decodePin (rst : BitVec 1) : Except DecodeError Instr :=
  if rst = 1#1 then .ok .reset else .error .resetNotAsserted

/-- R85: the operation a control word selects. -/
def decode : ControlWord → Except DecodeError Instr
  | .cmd w => .ok (decodeCmd w)
  | .seq w => decodeSeq w
  | .pin r => decodePin r

/-! ## Bytes

No rule stores a control word in bytes: the three formats stand on three separate places (two ports
and the sequencer's own wires). The byte form is the model's (log entry 7): a CMD word is two bytes,
the low byte first, its seven spare bits zero; one byte is the PIN word when it is 01 and a SEQ word
otherwise (01 as a SEQ word has `PHASE = IDLE` and selects nothing, R81). -/

/-- The control word a byte string holds. -/
def ControlWord.ofBytes : List Byte → Except DecodeError ControlWord
  | [b]     => if b = 0x01#8 then .ok (.pin 1#1) else .ok (.seq b)
  | [lo, hi] => if hi &&& 0xFE#8 = 0#8 then .ok (.cmd (hi.extractLsb' 0 1 ++ lo))
                else .error .notAControlWord
  | _       => .error .notAControlWord

/-- The decoder on any bytes. -/
def decodeBytes (bs : List Byte) : Except DecodeError Instr :=
  match ControlWord.ofBytes bs with
  | .ok w    => decode w
  | .error e => .error e

/-- The bytes of a word of `nbits` bits numbered as spec/opcode_table.json numbers them, the low byte
first; `nbits` is rounded up to whole bytes. -/
def tableBytes (nbits w : Nat) : List Byte :=
  (List.range ((nbits + 7) / 8)).map fun k => BitVec.ofNat 8 (w >>> (8 * k))

/-- The control word those bits hold, none where there is none. -/
def tableWord (nbits w : Nat) : Option ControlWord :=
  if w < 2 ^ (8 * ((nbits + 7) / 8)) then
    match ControlWord.ofBytes (tableBytes nbits w) with
    | .ok c    => some c
    | .error _ => none
  else none

/-- The instruction the decoder reads from the bits `w` of a row of spec/opcode_table.json. -/
def decodeTableWord (nbits w : Nat) : Option Instr :=
  match tableWord nbits w with
  | none   => none
  | some c =>
    match decode c with
    | .ok i    => some i
    | .error _ => none

/-! ## The encoder -/

/-- The control word of an instruction, from R71, R81 and R84: `kkkkbbbbm`, `0100rrrr`, `0110rrrr`,
`01m10000`, `1`. -/
def encode : Instr → ControlWord
  | .enc blen klen => .cmd (klen ++ blen ++ Mode.encrypt.bit)
  | .dec blen klen => .cmd (klen ++ blen ++ Mode.decrypt.bit)
  | .roundE rc     => .seq (0b010#3 ++ rc)
  | .roundD rc     => .seq (0b011#3 ++ rc)
  | .finish m      => .seq (0b01#2 ++ m.bit ++ 0b10000#5)
  | .reset         => .pin 1#1

/-- The bytes of a control word, the inverse of `ControlWord.ofBytes` on the words that decode. -/
def ControlWord.toBytes : ControlWord → List Byte
  | .cmd w => [w.extractLsb' 0 8, 0#7 ++ w.extractLsb' 8 1]
  | .seq w => [w]
  | .pin r => [0#7 ++ r]

/-! ## The opcode table (R85) -/

/-- R70: the control formats by name. -/
inductive Format where
  | cmd | seq | pin
  deriving DecidableEq, Repr

/-- One row of spec/opcode_table.json; `pattern` is the row's `match`. -/
structure OpcodeRow where
  mnemonic : String
  format   : Format
  width    : Nat
  pattern  : Nat
  mask     : Nat
  deriving DecidableEq, Repr

/-- R85, R81, R84: the six rows. -/
def opcodeTable : List OpcodeRow :=
  [ ⟨"ENC", .cmd, 9, 0x000, 0x001⟩,
    ⟨"DEC", .cmd, 9, 0x001, 0x001⟩,
    ⟨"ROUND.E", .seq, 8, 0x40, 0xF0⟩,
    ⟨"ROUND.D", .seq, 8, 0x60, 0xF0⟩,
    ⟨"FINISH", .seq, 8, 0x50, 0xDF⟩,
    ⟨"RESET", .pin, 1, 0x1, 0x1⟩ ]

/-- The table's name of an instruction (R85). -/
def Instr.mnemonic : Instr → String
  | .enc _ _  => "ENC"
  | .dec _ _  => "DEC"
  | .roundE _ => "ROUND.E"
  | .roundD _ => "ROUND.D"
  | .finish _ => "FINISH"
  | .reset    => "RESET"

/-- The format and the number a control word is. -/
def ControlWord.number : ControlWord → Format × Nat
  | .cmd w => (.cmd, w.toNat)
  | .seq w => (.seq, w.toNat)
  | .pin r => (.pin, r.toNat)

/-- R81: a word selects a row when `(w & mask) = match`. -/
def OpcodeRow.selects (row : OpcodeRow) (c : ControlWord) : Bool :=
  decide (row.format = c.number.1) && (c.number.2 &&& row.mask == row.pattern)

/-- The mnemonics of the rows a word selects. -/
def selectedRows (c : ControlWord) : List String :=
  (opcodeTable.filter fun row => row.selects c).map OpcodeRow.mnemonic

end Sys2Proof
end

