-- ==== Sys2Proof/Machine/State.lean ====
section
/-! DEFINITION. The state of one CORE instance (spec/10_state.md R20 to R33), what stands at its input
ports, what its host does next, and the reasons a step can stop. -/

namespace Sys2Proof.Machine

/-- R26: the four values of `PHASE`; their codes (R82) are `Phase.code`. -/
inductive Phase where
  | idle | busy | done | error
  deriving DecidableEq, Repr

/-- R83: the error classes; their codes are `ErrCode.code`. Codes 5 to 7 are reserved and no state
holds them (spec/93_implementation_defined.md U10). -/
inductive ErrCode where
  | none | sizeMismatch | lengthMismatch | rangeError | lengthError
  deriving DecidableEq, Repr

/-- R150: the levels at the input ports. They are inputs, not state of the core (R29). -/
structure Ports where
  rst     : Bool
  start   : Bool
  cmd     : BitVec 9
  blockIn : Block
  keyIn   : Key
  deriving DecidableEq, Repr

/-- What the host does in one of the steps to come (log entry 2). -/
inductive HostAction where
  /-- drive these levels for one step; `rst` and `start` low: the host does nothing for one step, or
  reads the outputs, which changes nothing (R165) -/
  | drive (p : Ports)
  /-- `WAIT` (R86): "let the sequencer step until PHASE != BUSY" -/
  | wait
  deriving DecidableEq, Repr

/-- The machine: the ten registers of R20, `none` being "the content of a register that holds no
value" (R18: not a bit pattern, "an option type"; log entry 1), and the model's own two fields for the
host (log entry 2). -/
structure State where
  /-- `L`, R21 -/
  l       : Option Half
  /-- `R`, R22 -/
  r       : Option Half
  /-- `CD`, R23 -/
  cd      : Option KeyReg
  /-- `MODE`, R25 -/
  mode    : Option Mode
  /-- `RC`, R24 -/
  rc      : BitVec 5
  /-- `PHASE`, R26 -/
  phase   : Phase
  /-- `RESULT`, R27 -/
  result  : Option Block
  /-- `ERRCODE`, R28 -/
  errcode : ErrCode
  /-- `ERREXP`, R28 -/
  errexp  : Option LenField
  /-- `ERRACT`, R28 -/
  erract  : Option LenField
  /-- the levels the next step samples (R150, R217); the model's own field -/
  ports   : Ports
  /-- what the host drives in the steps after the next; the model's own field -/
  host    : List HostAction
  deriving DecidableEq, Repr

/-- The registers a step may find without a value. -/
inductive RegName where
  | l | r | cd | mode
  deriving DecidableEq, Repr

/-- Why the machine stops (log entry 10). -/
inductive Fault where
  /-- SAFE. Raised by `step`: `PHASE = BUSY` with `RC` in 17 to 31 selects nothing, "having no step
  (stuck), which errs toward unprovable" (R84 (b), U9). No run from reset reaches such a state. -/
  | noMicroOperation
  /-- SAFE. Raised by `step` (for `MODE`) and by `ROUND.E`, `ROUND.D`, `FINISH`: "reading a register
  that holds no value is an error of the model, never a number" (R17). No run from reset reaches it. -/
  | noValue (reg : RegName)
  deriving DecidableEq, Repr

/-- Why an operation is not carried out (log entry 10). -/
inductive Refusal where
  /-- SAFE. An instruction without a meaning in this model: raised by no arm of `exec`. -/
  | notModelled (mnemonic : String)
  /-- SAFE. Raised by `ENC` and `DEC`: a command presented while `PHASE = BUSY` "is not taken", "the spec
  refuses that behaviour rather than giving it a meaning" (R214, U1). -/
  | commandInBusy
  /-- SAFE. Raised by `ROUND.E`, `ROUND.D`, `FINISH` outside the registers that select them: they are
  "enabled only while PHASE = BUSY" and only when R158 selects them; `step` never runs one of them
  there. -/
  | notSelected
  deriving DecidableEq, Repr

/-- No strobe and all data lines low: what stands at the ports after reset (log entry 3). -/
def Ports.quiet : Ports :=
  { rst := false, start := false, cmd := 0#9, blockIn := 0#64, keyIn := 0#64 }

/-- R32, R211: the machine right after reset. The registers R32 calls unspecified hold `none`; the
ports are quiet and the host has nothing planned (log entries 1 to 3). -/
def State.reset : State :=
  { l := none, r := none, cd := none, mode := none, rc := 0#5, phase := .idle, result := none,
    errcode := .none, errexp := none, erract := none, ports := .quiet, host := [] }

end Sys2Proof.Machine
end

