-- ==== Sys2Proof/Machine/Operands.lean ====
section
/-! DEFINITION. Operand forms: how the ports carry operands (spec/30_encoding.md R71, R73, R74), and the
word the sequencer makes of its own registers (R81). -/

namespace Sys2Proof.Machine

/-- R82: the code of each phase. -/
def Phase.code : Phase → BitVec 2
  | .idle  => 0#2
  | .busy  => 1#2
  | .done  => 2#2
  | .error => 3#2

/-- R82: all four codes are used. -/
def Phase.ofCode (c : BitVec 2) : Phase :=
  if c = 0#2 then .idle else if c = 1#2 then .busy else if c = 2#2 then .done else .error

/-- R81: `SEQ = PHASE[1:0] || MODE || RC[4:0]`. There is no word while `MODE` holds no value, which in
BUSY no run reaches. -/
def State.seqWord (s : State) : Option (BitVec 8) :=
  s.mode.map fun m => s.phase.code ++ m.bit ++ s.rc

/-- R71: the command word with these fields. -/
def commandWord (m : Mode) (blen klen : LenField) : BitVec 9 := klen ++ blen ++ m.bit

/-- R74: the level of a 64-bit data port that carries the 8-byte sequence `b`: byte `b[m]` on
`p[63-8m : 56-8m]`. -/
def portOfBytes (b : List Byte) : BitVec 64 := vecOfBytes 64 b

/-- R74: the 8-byte sequence a data port carries. -/
def bytesOfPort (p : BitVec 64) : List Byte := bytesOfVec 8 p

/-- R86: an operand left-justified on its data port: bytes beyond the eighth dropped, missing bytes
driven as zero. -/
def operandPort (b : List Byte) : BitVec 64 := portOfBytes ((b ++ List.replicate 8 0#8).take 8)

/-- R17: `zext_4(v)`. -/
def zext4 (v : Nat) : BitVec 4 := BitVec.ofNat 4 v

end Sys2Proof.Machine
end

