-- ==== Sys2Proof/Machine/Flags.lean ====
section
/-! DEFINITION. The status registers: their codes, the size check that decides them (R153, R181, R188),
and what the output ports carry (R165, R215, R216). -/

namespace Sys2Proof.Machine

/-- R83: the code of each error class. -/
def ErrCode.code : ErrCode → BitVec 3
  | .none           => 0#3
  | .sizeMismatch   => 1#3
  | .lengthMismatch => 2#3
  | .rangeError     => 3#3
  | .lengthError    => 4#3

/-- R180, R187: the class of an error value. -/
def UnitError.errCode : UnitError → ErrCode
  | .sizeMismatch _ _   => .sizeMismatch
  | .lengthMismatch _ _ => .lengthMismatch
  | .rangeError _ _     => .rangeError
  | .lengthError _      => .lengthError

/-- R153, R181, R188: the size checks, block first; the offending declared length, none if both are 8. -/
def sizeViolation (blen klen : LenField) : Option LenField :=
  if blen.toNat ≠ Config.blockBytes then some blen
  else if klen.toNat ≠ Config.keyBytes then some klen
  else none

/-- R150: the output ports. A port of which R165 says that it carries no value here is `none`. -/
structure Outputs where
  phase   : BitVec 2
  result  : Option Block
  errcode : BitVec 3
  errexp  : Option LenField
  erract  : Option LenField
  deriving DecidableEq, Repr

/-- R165, R215, R216: what the host reads; a read changes nothing. -/
def State.outputs (s : State) : Outputs :=
  { phase   := s.phase.code
    result  := if s.phase = .done then s.result else none
    errcode := s.errcode.code
    errexp  := if s.phase = .error then s.errexp else none
    erract  := if s.phase = .error then s.erract else none }

end Sys2Proof.Machine
end

