-- ==== Sys2Proof/Machine/Ops.lean ====
section
/-! DEFINITION. The named operations over the registers and the ports that the meanings share: the start
of a command, error entry, loading, the Feistel update, finishing, reset; and the host's part in a
step: which word is taken, and what stands at the ports afterwards. CORE has no writable memory
(R40), so there are no operations over memory. -/

namespace Sys2Proof.Machine

/-! ## Command, error entry and return -/

/-- R153, first line: "whatever follows". This is also the only return from ERROR (R190): "Nothing is
restored, because nothing was saved". -/
def State.beginCommand (s : State) : State :=
  { s with result := none, errcode := .none, errexp := none, erract := none }

/-- R186: error entry, the one operation for it: what `raise SizeMismatch(expected, actual)` does to the
registers. `MODE` keeps its content. -/
def State.raiseSizeMismatch (s : State) (expected actual : LenField) : State :=
  { s with
    phase := .error, errcode := .sizeMismatch, errexp := some expected, erract := some actual,
    l := none, r := none, cd := none, result := none, rc := 0#5 }

/-- R153, after the checks: initial permutation, split, KINIT; `MODE`, `RC`, `PHASE`. -/
def State.load (T : Tables) (m : Mode) (s : State) : State :=
  { s with
    l     := some (streamSlice (permuteNet 64 s.ports.blockIn T.ip) 0 32)
    r     := some (streamSlice (permuteNet 64 s.ports.blockIn T.ip) 32 32)
    cd    := some (kinit T s.ports.keyIn)
    mode  := some m
    rc    := 0#5
    phase := .busy }

/-- R153: the command step common to `ENC` and `DEC`, enabled when `PHASE != BUSY`; in BUSY the command
is not taken (R150, R214). -/
def commandStep (T : Tables) (m : Mode) (blen klen : LenField) (s : State) :
    Host.Outcome State Fault Refusal :=
  if s.phase = .busy then .refused .commandInBusy
  else
    match sizeViolation blen klen with
    | some actual => .next (s.beginCommand.raiseSizeMismatch (zext4 Config.blockBytes) actual)
    | none        => .next (s.beginCommand.load T m)

/-! ## Rounds and FINISH -/

/-- R17: the operand `L`, `R` of a step, or the error of reading a register without a value. -/
def withHalves (s : State) (k : Half → Half → Host.Outcome State Fault Refusal) :
    Host.Outcome State Fault Refusal :=
  match s.l, s.r with
  | some l, some r => k l r
  | none,   _      => .fault (.noValue .l)
  | some _, none   => .fault (.noValue .r)

/-- R17: the operand `CD` of a step. -/
def withKeyReg (s : State) (k : KeyReg → Host.Outcome State Fault Refusal) :
    Host.Outcome State Fault Refusal :=
  match s.cd with
  | some cd => k cd
  | none    => .fault (.noValue .cd)

/-- R156: the Feistel update, given the new key register and the subkey. All writes take effect
together: the new values read the OLD `L` and `R`. -/
def State.feistelUpdate (T : Tables) (l r : Half) (step : KeyReg × Subkey) (s : State) : State :=
  { s with
    l  := some r
    r  := some (l ^^^ roundF T r step.2)
    cd := some step.1
    rc := s.rc + 1#5 }

/-- R154, R155, R158: one round of mode `m`, selected while `PHASE = BUSY`, `MODE = m`, `RC = rc` in 0 to
15; `kstep T m` is the schedule step of that mode. -/
def roundStep (T : Tables) (m : Mode) (rc : BitVec 5) (s : State) :
    Host.Outcome State Fault Refusal :=
  if s.phase = .busy ∧ s.mode = some m ∧ s.rc = rc ∧ rc.toNat < Config.rounds then
    withHalves s fun l r => withKeyReg s fun cd =>
      .next (s.feistelUpdate T l r (kstep T m rc.toNat cd))
  else .refused .notSelected

/-- R157: the writes of `FINISH`; `RC` stays 16, `MODE` stays. -/
def State.finishWith (T : Tables) (l r : Half) (s : State) : State :=
  { s with
    result := some (cipherFinish T l r), l := none, r := none, cd := none, phase := .done }

/-- R157, R158: `FINISH`, selected while `PHASE = BUSY` and `RC = 16`, whatever `MODE`. -/
def finishStep (T : Tables) (s : State) : Host.Outcome State Fault Refusal :=
  if s.phase = .busy ∧ s.rc.toNat = Config.rounds then
    withHalves s fun l r => .next (s.finishWith T l r)
  else .refused .notSelected

/-! ## Reset -/

/-- R210: the writes of `RESET`. The ports and the host are outside the core and keep what they hold. -/
def State.resetRegisters (s : State) : State :=
  { s with
    phase := .idle, rc := 0#5, errcode := .none, errexp := none, erract := none, result := none,
    l := none, r := none, cd := none, mode := none }

/-! ## The host's part in a step -/

/-- Both strobes low; the data lines keep their levels, which R217 makes irrelevant. -/
def Ports.release (p : Ports) : Ports := { p with rst := false, start := false }

/-- What the host puts on the ports for the next step, and what it does after that. `WAIT` (R86) leaves
the strobes low while the sequencer works and takes no step when `PHASE` is not BUSY; a host with
nothing planned leaves them low. -/
def hostNext (phase : Phase) (p : Ports) : List HostAction → Ports × List HostAction
  | []                => (p.release, [])
  | .drive q :: rest  => (q, rest)
  | .wait :: rest     => if phase = .busy then (p.release, .wait :: rest) else hostNext phase p rest

/-- The host moves on to the next step. -/
def State.advanceHost (s : State) : State :=
  { s with ports := (hostNext s.phase s.ports s.host).1, host := (hostNext s.phase s.ports s.host).2 }

/-- The host takes up a script (R86) from this state. -/
def State.withScript (s : State) (script : List HostAction) : State :=
  ({ s with host := script } : State).advanceHost

/-- The word taken in this step: `rst` overrides everything (R210), then a presented command (R150), then
the sequencer's own word while `PHASE = BUSY` (R158; without a `MODE` there is none, log entry 5);
otherwise there is no step to take. -/
def State.fetch (s : State) : Except Fault (Option ControlWord) :=
  if s.ports.rst then .ok (some (.pin 1#1))
  else if s.ports.start then .ok (some (.cmd s.ports.cmd))
  else if s.phase = .busy then
    match s.seqWord with
    | some w => .ok (some (.seq w))
    | none   => .error (.noValue .mode)
  else .ok none

/-- The state in which `fetch` takes the given word, everything else kept. A CMD word needs `PHASE` not
BUSY (R150). A SEQ word IS the registers `PHASE`, `MODE`, `RC` (R81); the halves and the key register,
which hold values in every reachable BUSY state (R21 to R23), are given one where they hold none (log
entry 8). -/
def State.placeWord (s : State) : ControlWord → State
  | .cmd w =>
    { s with
      phase := if s.phase = .busy then .idle else s.phase
      ports := { s.ports with rst := false, start := true, cmd := w } }
  | .seq w =>
    { s with
      phase := Phase.ofCode (w.extractLsb' 6 2)
      mode  := some (Mode.ofBit (w.extractLsb' 5 1))
      rc    := w.extractLsb' 0 5
      l     := some (s.l.getD 0#32)
      r     := some (s.r.getD 0#32)
      cd    := some (s.cd.getD 0#56)
      ports := s.ports.release }
  | .pin b => { s with ports := { s.ports with rst := b == 1#1, start := false } }

/-! ## Outcomes -/

/-- Carry a change of the state through an outcome. -/
def mapNext (f : State → State) : Host.Outcome State Fault Refusal → Host.Outcome State Fault Refusal
  | .next s    => .next (f s)
  | .fault e   => .fault e
  | .refused e => .refused e

/-- The next state, where there is one. -/
def nextState : Host.Outcome State Fault Refusal → Option State
  | .next s    => some s
  | .fault _   => none
  | .refused _ => none

end Sys2Proof.Machine
end

