-- ==== Sys2Proof/Machine/Orchestrator.lean ====
section
/-! DEFINITION. The meanings of the six operations selected by bits (spec/43_orchestrator.md,
spec/70_reset_and_hazards.md). Each stands first over an arbitrary `TABLES` (R57: "a parameter of the
step relation, the same for every step") and then for the machine's own. -/

namespace Sys2Proof.Machine

/-- R151: `ENC` is R153 with `MODE <- 0`. -/
def encWith (T : Tables) (blen klen : LenField) (s : State) : Host.Outcome State Fault Refusal :=
  commandStep T .encrypt blen klen s

/-- R152: `DEC` "differs from ENC in the value latched into MODE and in nothing else". -/
def decWith (T : Tables) (blen klen : LenField) (s : State) : Host.Outcome State Fault Refusal :=
  commandStep T .decrypt blen klen s

/-- R154: `ROUND.E`. -/
def roundEWith (T : Tables) (rc : BitVec 5) (s : State) : Host.Outcome State Fault Refusal :=
  roundStep T .encrypt rc s

/-- R155: `ROUND.D`. -/
def roundDWith (T : Tables) (rc : BitVec 5) (s : State) : Host.Outcome State Fault Refusal :=
  roundStep T .decrypt rc s

/-- R157: `FINISH`, the same in both modes: the mode bit of its word is not read. -/
def finishOf (T : Tables) (_m : Mode) (s : State) : Host.Outcome State Fault Refusal :=
  finishStep T s

/-- R151. -/
def execEnc (blen klen : LenField) (s : State) : Host.Outcome State Fault Refusal :=
  encWith tables blen klen s

/-- R152. -/
def execDec (blen klen : LenField) (s : State) : Host.Outcome State Fault Refusal :=
  decWith tables blen klen s

/-- R154. -/
def execRoundE (rc : BitVec 5) (s : State) : Host.Outcome State Fault Refusal :=
  roundEWith tables rc s

/-- R155. -/
def execRoundD (rc : BitVec 5) (s : State) : Host.Outcome State Fault Refusal :=
  roundDWith tables rc s

/-- R157. -/
def execFinish (m : Mode) (s : State) : Host.Outcome State Fault Refusal := finishOf tables m s

/-- R210: `RESET`, enabled in every state. -/
def execReset (s : State) : Host.Outcome State Fault Refusal := .next s.resetRegisters

end Sys2Proof.Machine
end

