-- ==== Sys2Proof/Machine/Dispatch.lean ====
section
/-! DEFINITION. One arm per constructor of Instr (spec/30_encoding.md R85). -/

namespace Sys2Proof.Machine

def exec (i : Instr) (s : State) : Host.Outcome State Fault Refusal :=
  match i with
  | .enc blen klen => Sys2Proof.Machine.execEnc blen klen s
  | .dec blen klen => Sys2Proof.Machine.execDec blen klen s
  | .roundE rc => Sys2Proof.Machine.execRoundE rc s
  | .roundD rc => Sys2Proof.Machine.execRoundD rc s
  | .finish m => Sys2Proof.Machine.execFinish m s
  | .reset => Sys2Proof.Machine.execReset s

end Sys2Proof.Machine
end

