-- ==== Sys2Proof/Machine/Step.lean ====
section
/-! DEFINITION. One step of the machine: the word taken, its decoding, its meaning, and the host moving
on (spec/43_orchestrator.md R150, R158). One instance, iterative, without time (log entry 11). -/

namespace Sys2Proof.Machine

/-- One step with the meaning `ex` of instructions. Where nothing is selected (no strobe, `PHASE` not
BUSY) the core "does nothing" (R32, R190, R197) and only the host moves on (log entry 6). A word of
the sequencer's that decodes to nothing leaves the machine stuck (R84 (b)). -/
def stepBy (ex : Instr → State → Host.Outcome State Fault Refusal) (s : State) :
    Host.Outcome State Fault Refusal :=
  match s.fetch with
  | .error f     => .fault f
  | .ok none     => .next s.advanceHost
  | .ok (some w) =>
    match decode w with
    | .error _ => .fault .noMicroOperation
    | .ok i    => mapNext State.advanceHost (ex i s)

/-- One step of the machine. -/
def step (s : State) : Host.Outcome State Fault Refusal := stepBy exec s

/-- R57: the meanings over an arbitrary `TABLES`; `exec` is this at the machine's own. -/
def execWith (T : Tables) : Instr → State → Host.Outcome State Fault Refusal
  | .enc blen klen => encWith T blen klen
  | .dec blen klen => decWith T blen klen
  | .roundE rc     => roundEWith T rc
  | .roundD rc     => roundDWith T rc
  | .finish m      => finishOf T m
  | .reset         => execReset

/-- R57: the step relation over an arbitrary `TABLES`. -/
def stepWith (T : Tables) (s : State) : Host.Outcome State Fault Refusal := stepBy (execWith T) s

/-- `k` steps over an arbitrary `TABLES`, stopping at the first fault or refusal. -/
def runWith (T : Tables) : Nat → State → Host.Outcome State Fault Refusal
  | 0,     s => .next s
  | k + 1, s =>
    match stepWith T s with
    | .next t    => runWith T k t
    | .fault e   => .fault e
    | .refused e => .refused e

/-- `s` with the given table word where the next step takes its word; `s` itself where the bits are no
control word (log entry 8). -/
def State.withFetchWord (s : State) (nbits w : Nat) : State :=
  match tableWord nbits w with
  | some c => s.placeWord c
  | none   => s

end Sys2Proof.Machine
end

