-- ==== Sys2Proof/Machine/Script.lean ====
section
/-! DEFINITION. Host scripts (spec/30_encoding.md R86, R87): the textual form, its lines, and the port
activity a line stands for. -/

namespace Sys2Proof.Machine

/-! ## From lines to port activity -/

/-- R86, R87: `rst` for one step. -/
def Ports.resetPulse : Ports := { Ports.quiet with rst := true }

/-- R86: the levels that present a command: `BLEN` and `KLEN` are the operands' lengths, `MODE` comes
from the mnemonic, the data ports carry the operands left-justified. -/
def commandPorts (m : Mode) (block key : List Byte) : Ports :=
  { rst := false, start := true,
    cmd := commandWord m (BitVec.ofNat 4 block.length) (BitVec.ofNat 4 key.length),
    blockIn := operandPort block, keyIn := operandPort key }

/-- R86, R87: what a well-formed line makes the host do; a line with an operand of more than 15 bytes
has no command word (R73) and assembles to nothing. -/
def assembleLine (line : HostLine) : Option (List HostAction) :=
  if line.wellFormed then
    some (match line with
      | .enc b k  => [.drive (commandPorts .encrypt b k)]
      | .dec b k  => [.drive (commandPorts .decrypt b k)]
      | .wait     => [.wait]
      | .reset    => [.drive .resetPulse]
      | .runE b k => [.drive (commandPorts .encrypt b k), .wait]
      | .runD b k => [.drive (commandPorts .decrypt b k), .wait])
  else none

/-- R86: a host script, its lines in order. -/
def assemble : List HostLine → Option (List HostAction)
  | []        => some []
  | l :: rest =>
    match assembleLine l, assemble rest with
    | some a, some b => some (a ++ b)
    | _,      _      => none

/-! ## From text to lines (log entry 9) -/

/-- The value of a hex digit. -/
def hexDigit (c : Char) : Option Nat :=
  if '0' ≤ c ∧ c ≤ '9' then some (c.toNat - 48)
  else if 'A' ≤ c ∧ c ≤ 'F' then some (c.toNat - 55)
  else if 'a' ≤ c ∧ c ≤ 'f' then some (c.toNat - 87)
  else none

/-- R86: an even number of hex digits, first byte first. -/
def hexBytes : List Char → Option (List Byte)
  | []          => some []
  | [_]         => none
  | a :: b :: t =>
    match hexDigit a, hexDigit b, hexBytes t with
    | some x, some y, some r => some (BitVec.ofNat 8 (16 * x + y) :: r)
    | _,      _,      _      => none

/-- R86: the characters of a quoted string after its opening quote, each character one byte; the closing
quote ends the operand. -/
def quotedBytes : List Char → Option (List Byte)
  | []     => none
  | [c]    => if c = '"' then some [] else none
  | c :: t =>
    if c ≠ '"' ∧ 32 ≤ c.toNat ∧ c.toNat ≤ 126 then
      (quotedBytes t).map fun r => BitVec.ofNat 8 c.toNat :: r
    else none

/-- A blank between the parts of a line. -/
def isBlank (c : Char) : Bool := c == ' ' || c == '\t' || c == '\r'

/-- Drop the blanks at both ends. -/
def trimBlanks (s : List Char) : List Char :=
  ((s.dropWhile isBlank).reverse.dropWhile isBlank).reverse

/-- R86: an operand in either form. -/
def parseOperand (s : List Char) : Option (List Byte) :=
  match trimBlanks s with
  | c :: t => if c = '"' then quotedBytes t else hexBytes (c :: t)
  | []     => some []

/-- Split at the first `sep` outside quotes: what stands before it and, where there is one, after it. -/
def splitOutside (sep : Char) (quoted : Bool) : List Char → List Char × Option (List Char)
  | []     => ([], none)
  | c :: t =>
    if !quoted && c == sep then ([], some t)
    else
      (c :: (splitOutside sep (quoted != (c == '"')) t).1, (splitOutside sep (quoted != (c == '"')) t).2)

/-- R86: the two operands of a command line. -/
def parseOperands (s : List Char) : Option (List Byte × List Byte) :=
  match splitOutside ',' false s with
  | (_, none)   => none
  | (a, some b) =>
    match parseOperand a, parseOperand b with
    | some x, some y => some (x, y)
    | _,      _      => none

/-- What a line of text is. -/
inductive ParsedLine where
  | empty
  | line (l : HostLine)
  | malformed
  deriving DecidableEq, Repr

/-- A line with two operands, from its constructor and the text after its mnemonic. -/
def commandLine (mk : List Byte → List Byte → HostLine) (operands : List Char) : ParsedLine :=
  match parseOperands operands with
  | some (b, k) => .line (mk b k)
  | none        => .malformed

/-- A line without operands. -/
def bareLine (l : HostLine) (rest : List Char) : ParsedLine :=
  if rest.all isBlank then .line l else .malformed

/-- R86, R87: one line of text; `;` starts a comment. The micro-operations "cannot be written in a
script". -/
def parseLine (text : List Char) : ParsedLine :=
  let body := trimBlanks (splitOutside ';' false text).1
  let word := body.takeWhile fun c => !isBlank c
  let rest := body.dropWhile fun c => !isBlank c
  if body = [] then .empty
  else if word = ['E', 'N', 'C'] then commandLine .enc rest
  else if word = ['D', 'E', 'C'] then commandLine .dec rest
  else if word = ['W', 'A', 'I', 'T'] then bareLine .wait rest
  else if word = ['R', 'E', 'S', 'E', 'T'] then bareLine .reset rest
  else if word = ['R', 'U', 'N', '.', 'E'] then commandLine .runE rest
  else if word = ['R', 'U', 'N', '.', 'D'] then commandLine .runD rest
  else .malformed

/-- The lines of a text, cut at each line end. -/
def splitLines : List Char → List (List Char)
  | []     => [[]]
  | c :: t =>
    if c = '\n' then [] :: splitLines t
    else
      match splitLines t with
      | l :: ls => (c :: l) :: ls
      | []      => [[c]]

/-- The script the parsed lines make, none where one of them is malformed. -/
def collectLines : List ParsedLine → Option (List HostLine)
  | []              => some []
  | .empty :: t     => collectLines t
  | .line l :: t    => (collectLines t).map fun r => l :: r
  | .malformed :: _ => none

/-- R86: a host script from its text. -/
def parseScript (text : String) : Option (List HostLine) :=
  collectLines ((splitLines text.toList).map parseLine)

end Sys2Proof.Machine
end

