-- ==== Sys2Proof/Safety.lean ====
section
/-! DEFINITION. What the reachable states look like (spec/10_state.md R20 to R33), and what a host owes the
machine (spec/70_reset_and_hazards.md R214). -/

namespace Sys2Proof.Machine

/-- R32: IDLE, "no transaction since reset": nothing but `RC` and `ERRCODE` holds a value. -/
abbrev State.InvIdle (s : State) : Prop :=
  s.l = none ∧ s.r = none ∧ s.cd = none ∧ s.mode = none ∧ s.rc = 0#5 ∧ s.result = none ∧
    s.errcode = .none ∧ s.errexp = none ∧ s.erract = none

/-- R24, R27, R28: BUSY: the datapath and `MODE` hold values, `RC` is at most 16, and neither a result
nor an error is held. -/
abbrev State.InvBusy (s : State) : Prop :=
  s.l.isSome ∧ s.r.isSome ∧ s.cd.isSome ∧ s.mode.isSome ∧ s.rc.toNat ≤ Config.rounds ∧
    s.result = none ∧ s.errcode = .none ∧ s.errexp = none ∧ s.erract = none

/-- R24, R27, R31: DONE: `RESULT` holds the result, `RC` is 16, the datapath is discarded. -/
abbrev State.InvDone (s : State) : Prop :=
  s.l = none ∧ s.r = none ∧ s.cd = none ∧ s.mode.isSome ∧ s.rc.toNat = Config.rounds ∧
    s.result.isSome ∧ s.errcode = .none ∧ s.errexp = none ∧ s.erract = none

/-- R28, R186: ERROR: a SizeMismatch with expected length 8 and an actual length that is not 8; the
datapath and the result are discarded, `RC` is 0. -/
abbrev State.InvError (s : State) : Prop :=
  s.l = none ∧ s.r = none ∧ s.cd = none ∧ s.rc = 0#5 ∧ s.result = none ∧
    s.errcode = .sizeMismatch ∧ s.errexp = some 8#4 ∧ s.erract.isSome ∧ s.erract ≠ some 8#4

/-- What holds in every state a run from reset reaches. -/
abbrev State.Inv (s : State) : Prop :=
  (s.phase = .idle → s.InvIdle) ∧ (s.phase = .busy → s.InvBusy) ∧
    (s.phase = .done → s.InvDone) ∧ (s.phase = .error → s.InvError)

/-- R214: the host's one obligation: it presents no command while `PHASE = BUSY`, unless it also resets. -/
abbrev State.HostWaits (s : State) : Prop :=
  s.phase = .busy → s.ports.start = true → s.ports.rst = true

/-- R33: the ten registers without the ports and the host, for statements about two states. -/
def State.registers (s : State) : State := { s with ports := .quiet, host := [] }

/-- R86: with these plans the host leaves both strobes low until `PHASE` is not BUSY. -/
abbrev waitsForResult (plan : List HostAction) : Prop := plan = [] ∨ plan.head? = some .wait

/-- A run without a stop: `k` steps end in a next state. -/
abbrev SafeRun (k : Nat) (s : State) : Prop := (nextState (Sys2Proof.core.run k s)).isSome

end Sys2Proof.Machine
end

