-- ==== Sys2Proof/Certificates/Slice0/Obligations.lean ====
section
/-! DEFINITION. The statements for the provers, in the order of OBLIGATIONS.json. Each docstring names the
rule it formalises. A value that the spec supplies from general knowledge (the default tables, log entry
4) occurs in a statement only as `tables`, never as a number, but where the docstring says so. -/

open Sys2Proof Sys2Proof.Machine

/-! ## Reset -/

/-- R211: the reset state is the table of R32, and the sequencer has no step in it, whatever stands on the
data lines. -/
def Obligations.ResetStateIsTheTableOfResetValues : Prop :=
  State.reset.phase = .idle ∧ State.reset.rc = 0#5 ∧ State.reset.errcode = .none ∧
    State.reset.errexp = none ∧ State.reset.erract = none ∧ State.reset.result = none ∧
    State.reset.l = none ∧ State.reset.r = none ∧ State.reset.cd = none ∧ State.reset.mode = none ∧
    ∀ p : Ports, p.rst = false → p.start = false → ({ State.reset with ports := p } : State).fetch = .ok none

/-- R210: `RESET` completes in every state and writes every register; a repeated reset equals one reset;
the outputs after it; in a reachable IDLE state it changes no output; and while `rst = 1` it is the step
taken, whatever command is presented and whatever the sequencer would do. The model's own two fields
(log entry 2) are outside the core: the operation keeps them. -/
def Obligations.ResetWritesEveryRegisterAndOverrides : Prop :=
  ∀ s : State,
    (∃ t, exec .reset s = .next t ∧
      t.phase = .idle ∧ t.rc = 0#5 ∧ t.errcode = .none ∧ t.errexp = none ∧ t.erract = none ∧
      t.result = none ∧ t.l = none ∧ t.r = none ∧ t.cd = none ∧ t.mode = none ∧
      t.ports = s.ports ∧ t.host = s.host ∧
      exec .reset t = .next t ∧
      t.outputs = { phase := 0#2, result := none, errcode := 0#3, errexp := none, erract := none } ∧
      (s.Inv → s.phase = .idle → t.outputs = s.outputs)) ∧
    (s.ports.rst = true → step s = mapNext State.advanceHost (exec .reset s))

/-! ## Host commands -/

/-- R151, R152, R153: the command step in full, for both mnemonics, every pair of declared lengths and
every phase. What stands at the data ports and is not an operand (a wrong length) does not occur in
the next state. -/
def Obligations.CommandStepChecksThenLoads : Prop :=
  ∀ (s : State) (m : Mode) (blen klen : LenField) (i : Instr),
    i = (match m with | .encrypt => Instr.enc blen klen | .decrypt => Instr.dec blen klen) →
    (s.phase ≠ .busy → blen = 8#4 → klen = 8#4 →
      exec i s = .next
        { l := some (streamSlice (permuteNet 64 s.ports.blockIn tables.ip) 0 32),
          r := some (streamSlice (permuteNet 64 s.ports.blockIn tables.ip) 32 32),
          cd := some (permuteNet 56 s.ports.keyIn tables.pc1),
          mode := some m, rc := 0#5, phase := .busy, result := none, errcode := .none,
          errexp := none, erract := none, ports := s.ports, host := s.host }) ∧
    (s.phase ≠ .busy → ¬(blen = 8#4 ∧ klen = 8#4) →
      exec i s = .next
        { l := none, r := none, cd := none, mode := s.mode, rc := 0#5, phase := .error,
          result := none, errcode := .sizeMismatch, errexp := some 8#4,
          erract := some (if blen ≠ 8#4 then blen else klen), ports := s.ports, host := s.host }) ∧
    (s.phase = .busy → exec i s = .refused .commandInBusy)

/-- R186: error entry. A refused command of either mode, from any phase in which commands are taken,
leaves exactly these writes: the error registers name the class, the expected and the offending
length, the datapath and `RESULT` are discarded, `MODE` (and the ports and the host, log entry 2) keep
what they hold, and with both strobes low the machine has no step to take afterwards. -/
def Obligations.RefusedCommandEntersError : Prop :=
  ∀ (s : State) (blen klen : LenField), s.phase ≠ .busy → ¬(blen = 8#4 ∧ klen = 8#4) →
    ∀ i ∈ [Instr.enc blen klen, Instr.dec blen klen], ∃ t, exec i s = .next t ∧
      t.phase = .error ∧ t.errcode.code = 1#3 ∧ t.errexp = some 8#4 ∧
      t.erract = some (if blen ≠ 8#4 then blen else klen) ∧
      t.l = none ∧ t.r = none ∧ t.cd = none ∧ t.result = none ∧ t.rc = 0#5 ∧
      t.mode = s.mode ∧ t.ports = s.ports ∧ t.host = s.host ∧
      (t.ports.rst = false → t.ports.start = false → t.fetch = .ok none)

/-- R214: a command in BUSY is not taken: neither mnemonic has an effect, and a step in which the host
presents one there (without reset) is refused, whatever its word. -/
def Obligations.CommandInBusyIsNotTaken : Prop :=
  ∀ s : State, s.phase = .busy →
    (∀ blen klen : LenField, exec (.enc blen klen) s = .refused .commandInBusy ∧
      exec (.dec blen klen) s = .refused .commandInBusy) ∧
    (s.ports.start = true → s.ports.rst = false → step s = .refused .commandInBusy)

/-- R71: the three fields of a command word are read from their bits, every one of the 512 words is `ENC`
or `DEC`, and exactly `0x110` and `0x111` start a transaction where commands are taken; every other
word is refused with SizeMismatch. -/
def Obligations.CommandWordFieldsAndTheTwoAcceptedWords : Prop :=
  ∀ w : BitVec 9,
    decode (.cmd w) = .ok (if w.getLsbD 0 then .dec (w.extractLsb' 1 4) (w.extractLsb' 5 4)
      else .enc (w.extractLsb' 1 4) (w.extractLsb' 5 4)) ∧
    ∀ (s : State) (i : Instr), s.phase ≠ .busy → decode (.cmd w) = .ok i →
      ∃ t, exec i s = .next t ∧ (t.phase = .busy ↔ w = 0x110#9 ∨ w = 0x111#9) ∧
        (¬(w = 0x110#9 ∨ w = 0x111#9) → t.phase = .error ∧ t.errcode = .sizeMismatch)

/-- R190: ERROR is left by the next command or by reset only. An accepted command clears the error
registers and goes to BUSY, a refused one stays in ERROR with its own error's registers, reset goes to
IDLE, and with neither there is no word to run and nothing a step answers differs in a register. -/
def Obligations.ErrorIsLeftByCommandOrReset : Prop :=
  ∀ s : State, s.phase = .error →
    (∀ i ∈ [Instr.enc 8#4 8#4, Instr.dec 8#4 8#4], ∃ t, exec i s = .next t ∧ t.phase = .busy ∧
      t.errcode = .none ∧ t.errexp = none ∧ t.erract = none) ∧
    (∀ blen klen : LenField, ¬(blen = 8#4 ∧ klen = 8#4) →
      ∀ i ∈ [Instr.enc blen klen, Instr.dec blen klen], ∃ t, exec i s = .next t ∧ t.phase = .error ∧
        t.errcode = .sizeMismatch ∧ t.errexp = some 8#4 ∧
        t.erract = some (if blen ≠ 8#4 then blen else klen)) ∧
    (∃ t, exec .reset s = .next t ∧ t.phase = .idle ∧ t.errcode = .none) ∧
    (s.ports.rst = false → s.ports.start = false →
      s.fetch = .ok none ∧ ∀ t, step s = .next t → t.registers = s.registers)

/-! ## Rounds and FINISH -/

/-- R154, R156, R117: `ROUND.E` where the registers select it: the register is rotated left FIRST and the
subkey extracted from the ROTATED register; new left = old right, new right = old left XOR `F`; `RC`
advances by 1 without wrapping; every other register, the ports and the host keep what they hold. When
`CD` is what KINIT loaded, moved by the fifteen rounds before, round 15 leaves what KINIT loaded. -/
def Obligations.RoundEncryptRotatesThenExtracts : Prop :=
  ∀ (s : State) (l r : Half) (cd cd' : KeyReg) (k : Subkey),
    s.phase = .busy → s.mode = some .encrypt → s.rc.toNat < 16 →
    s.l = some l → s.r = some r → s.cd = some cd →
    cd' = rotL cd (rotAmt .encrypt s.rc.toNat) → k = permuteNet 48 cd' tables.pc2 →
    exec (.roundE s.rc) s = .next
      { s with l := some r, r := some (l ^^^ roundF tables r k), cd := some cd', rc := s.rc + 1#5 } ∧
    (s.rc + 1#5).toNat = s.rc.toNat + 1 ∧
    (∀ cd0, s.rc = 15#5 → cd = keyRegAt tables .encrypt cd0 15 → cd' = cd0)

/-- R155, R156, R118: `ROUND.D` where the registers select it: the subkey is extracted from the register
as it stands FIRST, THEN the register is rotated right, in round 15 too. The rest is `ROUND.E`. -/
def Obligations.RoundDecryptExtractsThenRotates : Prop :=
  ∀ (s : State) (l r : Half) (cd cd' : KeyReg) (k : Subkey),
    s.phase = .busy → s.mode = some .decrypt → s.rc.toNat < 16 →
    s.l = some l → s.r = some r → s.cd = some cd →
    k = permuteNet 48 cd tables.pc2 → cd' = rotR cd (rotAmt .decrypt s.rc.toNat) →
    exec (.roundD s.rc) s = .next
      { s with l := some r, r := some (l ^^^ roundF tables r k), cd := some cd', rc := s.rc + 1#5 } ∧
    (s.rc + 1#5).toNat = s.rc.toNat + 1 ∧
    (∀ cd0, s.rc = 15#5 → cd = keyRegAt tables .decrypt cd0 15 → cd' = cd0)

/-- R157: `FINISH` where the registers select it, for either mode bit of its word and whatever `MODE`
holds: the pre-output is the RIGHT half as round 15 left it, then the left; `RESULT` is its final
permutation; the datapath is discarded; `RC` stays 16 and everything else keeps what it holds. In the
values `l15`, `r15` before round 15 and its subkey `k15`, the pre-output is the result of round 15
without its swap. -/
def Obligations.FinishSwapsAndPermutes : Prop :=
  ∀ (s : State) (m : Mode) (l r : Half),
    s.phase = .busy → s.rc = 16#5 → s.l = some l → s.r = some r →
    exec (.finish m) s = .next
      { s with
        result := some (permuteNet 64 (r ++ l) tables.fp), l := none, r := none, cd := none,
        phase := .done } ∧
    (∀ (l15 r15 : Half) (k15 : Subkey), l = r15 → r = l15 ^^^ roundF tables r15 k15 →
      r ++ l = (l15 ^^^ roundF tables r15 k15) ++ r15)

/-- R158, R150: outside the registers that select it, a micro-operation is not carried out. That `exec` then
answers this refusal is the model's form of "no step" (log entry 10). -/
def Obligations.UnselectedMicroOperationIsRefused : Prop :=
  ∀ (s : State) (rc : BitVec 5) (m : Mode),
    (¬(s.phase = .busy ∧ s.mode = some .encrypt ∧ s.rc = rc ∧ rc.toNat < 16) →
      exec (.roundE rc) s = .refused .notSelected) ∧
    (¬(s.phase = .busy ∧ s.mode = some .decrypt ∧ s.rc = rc ∧ rc.toNat < 16) →
      exec (.roundD rc) s = .refused .notSelected) ∧
    (¬(s.phase = .busy ∧ s.rc = 16#5) → exec (.finish m) s = .refused .notSelected)

/-- R17: a selected step that would read a register holding no value stops, naming the register, and
computes nothing. The fault is the model's form of "an error of the model" (log entries 5, 10). -/
def Obligations.ReadingNoValueStops : Prop :=
  ∀ (s : State) (m : Mode) (i : Instr), s.phase = .busy →
    (s.mode = some m → s.rc.toNat < 16 →
      i = (match m with | .encrypt => Instr.roundE s.rc | .decrypt => Instr.roundD s.rc) →
      (s.l = none → exec i s = .fault (.noValue .l)) ∧
      (s.l.isSome → s.r = none → exec i s = .fault (.noValue .r)) ∧
      (s.l.isSome → s.r.isSome → s.cd = none → exec i s = .fault (.noValue .cd))) ∧
    (s.rc = 16#5 →
      (s.l = none → exec (.finish m) s = .fault (.noValue .l)) ∧
      (s.l.isSome → s.r = none → exec (.finish m) s = .fault (.noValue .r))) ∧
    (s.mode = none → s.ports.rst = false → s.ports.start = false →
      step s = .fault (.noValue .mode))

/-- R156, R157, R153, R186, R210: frames. What each operation leaves as it found it when it answers a
next state: a round changes `L`, `R`, `CD`, `RC` only; `FINISH` changes `L`, `R`, `CD`, `PHASE`,
`RESULT` only; a command keeps `MODE` when it is refused; and no operation changes the ports or the
host. CORE has no writable memory (R40). -/
def Obligations.OperationFrames : Prop :=
  ∀ s t : State,
    (∀ (rc : BitVec 5), ∀ i ∈ [Instr.roundE rc, Instr.roundD rc], exec i s = .next t →
      t.mode = s.mode ∧ t.phase = s.phase ∧ t.result = s.result ∧ t.errcode = s.errcode ∧
        t.errexp = s.errexp ∧ t.erract = s.erract) ∧
    (∀ m, exec (.finish m) s = .next t →
      t.mode = s.mode ∧ t.rc = s.rc ∧ t.errcode = s.errcode ∧ t.errexp = s.errexp ∧
        t.erract = s.erract) ∧
    (∀ (blen klen : LenField), ∀ i ∈ [Instr.enc blen klen, Instr.dec blen klen],
      exec i s = .next t → t.phase = .error → t.mode = s.mode) ∧
    (∀ i : Instr, exec i s = .next t → t.ports = s.ports ∧ t.host = s.host)

/-! ## Decoding and the step -/

/-- R81: the word the sequencer makes of its own registers, what it selects, for all phases, modes and
counts; and of all 256 words, each selects by `match` and `mask` the one row of the operation it decodes
to, and no row where it decodes to none. -/
def Obligations.SequencerWordSelectsByPhaseModeRc : Prop :=
  (∀ (s : State) (m : Mode), s.mode = some m →
    ∃ w, s.seqWord = some w ∧ w.extractLsb' 6 2 = s.phase.code ∧ w.extractLsb' 5 1 = m.bit ∧
      w.extractLsb' 0 5 = s.rc ∧
      decode (.seq w) =
        if s.phase = .busy then
          if s.rc.toNat < 16 then
            .ok (match m with | .encrypt => .roundE s.rc | .decrypt => .roundD s.rc)
          else if s.rc.toNat = 16 then .ok (.finish m) else .error .roundCounterOutOfRange
        else .error .noSequencerStep) ∧
  ∀ w : BitVec 8, selectedRows (.seq w) =
    match decode (.seq w) with
    | .ok i    => [i.mnemonic]
    | .error _ => []

/-- R158: the sequencer, with both strobes low: in BUSY with `MODE` holding `m`, the step is the round of
`m` while `RC` is at most 15 and `FINISH` at 16 (then the host moves on, log entry 2), and for `RC` in 17
to 31 there is none: the machine is stuck (R84 (b), log entry 10). -/
def Obligations.SequencerStepsByRc : Prop :=
  ∀ (s : State) (m : Mode), s.ports.rst = false → s.ports.start = false → s.phase = .busy →
    s.mode = some m →
    (s.rc.toNat < 16 → m = .encrypt →
      step s = mapNext State.advanceHost (exec (.roundE s.rc) s)) ∧
    (s.rc.toNat < 16 → m = .decrypt →
      step s = mapNext State.advanceHost (exec (.roundD s.rc) s)) ∧
    (s.rc.toNat = 16 → step s = mapNext State.advanceHost (exec (.finish m) s)) ∧
    (16 < s.rc.toNat → step s = .fault .noMicroOperation)

/-- A step runs the decoded word: which word a step takes (R210, R150, R158, in this priority), and that
the step is `exec` of what the word decodes to, after which the host moves on (log entry 2). -/
def Obligations.StepRunsTheDecodedWord : Prop :=
  ∀ s : State,
    (s.ports.rst = true → s.fetch = .ok (some (.pin 1#1))) ∧
    (s.ports.rst = false → s.ports.start = true → s.fetch = .ok (some (.cmd s.ports.cmd))) ∧
    (s.ports.rst = false → s.ports.start = false → s.phase = .busy →
      ∀ w, s.seqWord = some w → s.fetch = .ok (some (.seq w))) ∧
    (s.ports.rst = false → s.ports.start = false → s.phase ≠ .busy → s.fetch = .ok none) ∧
    ∀ w i, s.fetch = .ok (some w) → decode w = .ok i →
      step s = mapNext State.advanceHost (exec i s)

/-- The model's choice of log entry 6 for "the sequencer does nothing in IDLE, DONE and ERROR" (R32): with
both strobes low outside BUSY, a step is answered, no register changes, and only the host moves on. -/
def Obligations.NothingSelectedChangesNoRegister : Prop :=
  ∀ s : State, s.ports.rst = false → s.ports.start = false → s.phase ≠ .busy →
    ∃ t, step s = .next t ∧ t.registers = s.registers ∧
      t.ports = (hostNext s.phase s.ports s.host).1 ∧ t.host = (hostNext s.phase s.ports s.host).2

/-- R71, R81, R84: no bit of an encoding is dropped: every well-formed instruction decodes back from its
encoding, as a control word and as bytes (whose layout is the model's, log entry 7). -/
def Obligations.DecodeOfEncodeIsTheInstruction : Prop :=
  ∀ i : Instr, i.wellFormed = true →
    decode (encode i) = .ok i ∧ decodeBytes (encode i).toBytes = .ok i

/-- R71, R81, R84: each word has one meaning: a word that decodes is the encoding of what it decodes to,
and what it decodes to is well formed. -/
def Obligations.EncodeOfDecodeIsTheWord : Prop :=
  ∀ (c : ControlWord) (i : Instr), decode c = .ok i → encode i = c ∧ i.wellFormed = true

/-- R85: one word of each row, written out from the row's encoding, decodes to the row's operation. -/
def Obligations.TableWordsDecode : Prop :=
  decode (.cmd 0b100010000#9) = .ok (.enc 8#4 8#4) ∧
  decode (.cmd 0b001101111#9) = .ok (.dec 7#4 3#4) ∧
  decode (.seq 0b01001001#8) = .ok (.roundE 9#5) ∧
  decode (.seq 0b01101110#8) = .ok (.roundD 14#5) ∧
  decode (.seq 0b01110000#8) = .ok (.finish .decrypt) ∧
  decode (.pin 1#1) = .ok .reset

/-- The model's own placing of a word (log entry 8): a word of the opcode table that decodes is the word
the next step runs, in every state, and from reset that step is answered with a next state. -/
def Obligations.PlacedTableWordRunsNext : Prop :=
  ∀ (nbits w : Nat) (i : Instr), decodeTableWord nbits w = some i →
    (∀ s : State, step (s.withFetchWord nbits w) =
      mapNext State.advanceHost (exec i (s.withFetchWord nbits w))) ∧
    ∃ t, step (State.reset.withFetchWord nbits w) = .next t

/-! ## Invariants and whole-machine rules -/

/-- R20 to R32: the reachable states' invariant is kept by every step, from every state that has it: which
registers hold values in which phase, that `RC` never exceeds 16, and that the error registers agree
with `PHASE`. -/
def Obligations.EveryStepKeepsTheInvariant : Prop :=
  ∀ s t : State, s.Inv → step s = .next t → t.Inv

/-- R32: the invariant holds at reset. -/
def Obligations.ResetHasTheInvariant : Prop := State.reset.Inv

/-- R158, R214: a machine whose host waits never stops: from every state with the invariant, whatever
stands at the ports, a step is answered with a next state unless a command is presented in BUSY (outside
BUSY without a command: log entry 6). -/
def Obligations.NoStopWhileTheHostWaits : Prop :=
  ∀ s : State, s.Inv → s.HostWaits → ∃ t, step s = .next t

/-- R26: who changes `PHASE`: reset to IDLE, an accepted command to BUSY, a refused one to ERROR, `FINISH`
to DONE; no step changes it otherwise. -/
def Obligations.PhaseChangesOnlyAsListed : Prop :=
  ∀ s t : State, step s = .next t → t.phase ≠ s.phase →
    (s.ports.rst = true ∧ t.phase = .idle) ∨
    (s.ports.rst = false ∧ s.ports.start = true ∧ s.phase ≠ .busy ∧
      ((s.ports.cmd.extractLsb' 1 8 = 0x88#8 ∧ t.phase = .busy) ∨
        (s.ports.cmd.extractLsb' 1 8 ≠ 0x88#8 ∧ t.phase = .error))) ∨
    (s.ports.rst = false ∧ s.ports.start = false ∧ s.phase = .busy ∧ s.rc = 16#5 ∧ t.phase = .done)

/-- R24, R25: during a transaction (BUSY, no reset) `MODE` is never written and `RC` counts: a step in
BUSY keeps `MODE` and either advances `RC` by exactly 1, from at most 15, or is `FINISH` and leaves it
at 16; and outside BUSY a step leaves `RC` or sets it to 0. -/
def Obligations.ModeFixedAndRcCounts : Prop :=
  ∀ s t : State, step s = .next t → s.ports.rst = false →
    (s.phase = .busy → t.mode = s.mode ∧
      ((s.rc.toNat ≤ 15 ∧ t.rc.toNat = s.rc.toNat + 1 ∧ t.phase = .busy) ∨
        (s.rc.toNat = 16 ∧ t.rc = s.rc ∧ t.phase = .done))) ∧
    (s.phase ≠ .busy → t.rc = s.rc ∨ t.rc = 0#5)

/-- R27, R31: no value of a finished transaction is left over: in every state that a step reaches from a
state with the invariant, outside BUSY the datapath holds no value, and outside DONE `RESULT` holds
none; and a step changes `RESULT` only to `none` (a command or reset) or by `FINISH`. -/
def Obligations.NothingIsLeftOver : Prop :=
  ∀ s t : State, step s = .next t →
    (s.Inv → (t.phase ≠ .busy → t.l = none ∧ t.r = none ∧ t.cd = none) ∧
      (t.phase ≠ .done → t.result = none)) ∧
    (t.result ≠ s.result →
      (t.result = none ∧ (s.ports.rst = true ∨ s.ports.start = true)) ∨
      (s.ports.rst = false ∧ s.ports.start = false ∧ s.phase = .busy ∧ s.rc = 16#5 ∧
        t.phase = .done))

/-- R215, R216, R165: in every state with the invariant `result` carries a value exactly in DONE, `errexp`
and `erract` exactly in ERROR, `errcode` reads NONE exactly outside ERROR; and in DONE and in ERROR all
outputs stay as they are for as long as the host neither commands nor resets (that such a step is
answered: log entry 6). -/
def Obligations.OutputsCarryValuesOnlyWhenValid : Prop :=
  ∀ s : State, s.Inv →
    (s.outputs.result.isSome ↔ s.phase = .done) ∧
    (s.outputs.errexp.isSome ↔ s.phase = .error) ∧
    (s.outputs.erract.isSome ↔ s.phase = .error) ∧
    (s.outputs.errcode = 0#3 ↔ s.phase ≠ .error) ∧
    (s.phase = .done ∨ s.phase = .error → s.ports.rst = false → s.ports.start = false →
      ∃ t, step s = .next t ∧ t.outputs = s.outputs)

/-- R52: the outcome of a command is a function of what stands at the ports: from two states in which
commands are taken, whatever earlier commands left in them, the same presented command leads to the
same outputs, after an accepted one to the same ten registers, and after a refused one to registers
that differ in `MODE` at most. -/
def Obligations.CommandOutcomeDependsOnOperandsOnly : Prop :=
  ∀ s₁ s₂ : State, s₁.phase ≠ .busy → s₂.phase ≠ .busy → s₁.ports = s₂.ports →
    s₁.ports.rst = false → s₁.ports.start = true →
    ∃ t₁ t₂, step s₁ = .next t₁ ∧ step s₂ = .next t₂ ∧ t₁.outputs = t₂.outputs ∧
      (t₁.phase = .busy → t₁.registers = t₂.registers) ∧
      { t₁.registers with mode := none } = { t₂.registers with mode := none }

/-- R217: in a step that is no command step (`start` low, or overridden by `rst`) the levels of `cmd`,
`block_in` and `key_in` have no effect: whatever they are, the step ends the same way, with the same ten
registers. -/
def Obligations.InputsAreSampledInTheCommandStepOnly : Prop :=
  ∀ (s : State) (w : BitVec 9) (b k : BitVec 64), s.ports.rst = true ∨ s.ports.start = false →
    (∀ t, step s = .next t → ∃ t',
      step { s with ports := { s.ports with cmd := w, blockIn := b, keyIn := k } } = .next t' ∧
        t'.registers = t.registers) ∧
    (∀ e, step s = .fault e →
      step { s with ports := { s.ports with cmd := w, blockIn := b, keyIn := k } } = .fault e) ∧
    (∀ e, step s = .refused e →
      step { s with ports := { s.ports with cmd := w, blockIn := b, keyIn := k } } = .refused e)

/-! ## Transactions -/

/-- R57: the machine's run is the run over its own tables. -/
def Obligations.RunIsTheRunOverTheMachinesTables : Prop :=
  ∀ (k : Nat) (s : State), Sys2Proof.core.run k s = runWith tables k s

/-- R158, R159: for every `TABLES`: after an accepted command, with a host that waits (its plan is the
model's, log entry 2), the first `k` of the sixteen rounds
leave in `L`, `R`, `CD`, `RC` exactly the values of `CIPHER` after `k` rounds. -/
def Obligations.RoundsFollowTheCipherFunction : Prop :=
  ∀ (T : Tables) (s : State) (m : Mode) (k : Nat), s.phase ≠ .busy → s.ports.rst = false →
    s.ports.start = true → s.ports.cmd = commandWord m 8#4 8#4 → waitsForResult s.host → k ≤ 16 →
    ∃ t, runWith T (k + 1) s = .next t ∧ t.phase = .busy ∧ t.mode = some m ∧ t.rc.toNat = k ∧
      t.l = some (cipherRounds T m (cipherStart T s.ports.blockIn s.ports.keyIn) k).l ∧
      t.r = some (cipherRounds T m (cipherStart T s.ports.blockIn s.ports.keyIn) k).r ∧
      t.cd = some (cipherRounds T m (cipherStart T s.ports.blockIn s.ports.keyIn) k).cd ∧
      t.result = none

/-- R159, R160: for every `TABLES`: an accepted command ends after exactly 18 steps, not before, in DONE
with `RESULT` = `CIPHER` of its own operands; a refused one after 1 step in ERROR. The host waits for the
result (its plan is the model's, log entry 2). -/
def Obligations.TransactionEndsWithCipher : Prop :=
  ∀ (T : Tables) (s : State) (m : Mode) (blen klen : LenField), s.phase ≠ .busy →
    s.ports.rst = false → s.ports.start = true → s.ports.cmd = commandWord m blen klen →
    waitsForResult s.host →
    (blen = 8#4 → klen = 8#4 →
      (∃ t, runWith T 18 s = .next t ∧ t.phase = .done ∧
        t.result = some (cipher T s.ports.blockIn s.ports.keyIn m) ∧ t.errcode = .none ∧
        t.l = none ∧ t.r = none ∧ t.cd = none ∧ t.rc = 16#5 ∧ t.mode = some m) ∧
      ∀ k t, 1 ≤ k → k < 18 → runWith T k s = .next t → t.phase = .busy) ∧
    (¬(blen = 8#4 ∧ klen = 8#4) → ∃ t, runWith T 1 s = .next t ∧ t.phase = .error ∧
      t.errcode = .sizeMismatch ∧ t.errexp = some 8#4 ∧
      t.erract = some (if blen ≠ 8#4 then blen else klen))

/-- R161: the inverse law, in both directions, and the induction it rests on: decrypting a ciphertext runs
through the halves of its encryption in reverse, exchanged. It is stated for every `TABLES` that meets
R43 (1), (2) and (6), "whatever E, P, PC1, PC2 and the S-boxes hold", so for every admissible one. -/
def Obligations.DecryptInvertsEncrypt : Prop :=
  ∀ (T : Tables) (key : Key) (p : Block),
    T.lengthsOk = true → T.rangesOk = true → T.finalInvertsInitial = true →
    cipher T (cipher T p key .encrypt) key .decrypt = p ∧
    cipher T (cipher T p key .decrypt) key .encrypt = p ∧
    ∀ r, r ≤ 16 →
      (cipherRounds T .decrypt (cipherStart T (cipher T p key .encrypt) key) r).l =
        (cipherRounds T .encrypt (cipherStart T p key) (16 - r)).r ∧
      (cipherRounds T .decrypt (cipherStart T (cipher T p key .encrypt) key) r).r =
        (cipherRounds T .encrypt (cipherStart T p key) (16 - r)).l

/-- R161 at the machine, for every `TABLES` that meets R43 (1), (2) and (6), so for every admissible one: a
transaction in one mode ends with a result, and one in the other mode with that result as its block and
the same key, from any state in which commands are taken, ends with the first one's block in `RESULT`.
In both runs the host waits for the result (its plan is the model's, log entry 2). -/
def Obligations.MachineRoundTrip : Prop :=
  ∀ (T : Tables) (m m' : Mode) (s₁ : State),
    T.lengthsOk = true → T.rangesOk = true → T.finalInvertsInitial = true → m ≠ m' →
    s₁.phase ≠ .busy → s₁.ports.rst = false → s₁.ports.start = true →
    s₁.ports.cmd = commandWord m 8#4 8#4 → waitsForResult s₁.host →
    ∃ t₁ c, runWith T 18 s₁ = .next t₁ ∧ t₁.result = some c ∧
      ∀ s₂ : State, s₂.phase ≠ .busy → s₂.ports.rst = false → s₂.ports.start = true →
        s₂.ports.cmd = commandWord m' 8#4 8#4 → waitsForResult s₂.host →
        s₂.ports.blockIn = c → s₂.ports.keyIn = s₁.ports.keyIn →
        ∃ t₂, runWith T 18 s₂ = .next t₂ ∧ t₂.result = some s₁.ports.blockIn

/-- R159, R181, R187: `CIPHER` on byte sequences of any lengths: the block's length is checked first, the
error names 8 and the offending length, and on 8 and 8 bytes the result is the 8 bytes of the function
the machine computes. -/
def Obligations.CipherOnByteSequences : Prop :=
  ∀ (T : Tables) (block key : List Byte) (m : Mode),
    (block.length ≠ 8 → cipherBytes T block key m = .error (.sizeMismatch 8 block.length)) ∧
    (block.length = 8 → key.length ≠ 8 →
      cipherBytes T block key m = .error (.sizeMismatch 8 key.length)) ∧
    (block.length = 8 → key.length = 8 →
      ∃ out, cipherBytes T block key m = .result out ∧ out.length = 8 ∧
        portOfBytes out = cipher T (portOfBytes block) (portOfBytes key) m)

/-- R87, R86: `RUN.E` and `RUN.D` are their command and `WAIT`, and after a `RUN` with any two operands the
host can write, from any state in which commands are taken, `PHASE` is DONE or ERROR, the host has
nothing left to do (its plan: log entry 2), and for two 8-byte operands `RESULT` is `CIPHER` of them. -/
def Obligations.RunEndsInDoneOrError : Prop :=
  ∀ (s : State) (m : Mode) (block key : List Byte) (run command : HostLine), s.phase ≠ .busy →
    run = (match m with | .encrypt => HostLine.runE block key | .decrypt => HostLine.runD block key) →
    command = (match m with | .encrypt => HostLine.enc block key | .decrypt => HostLine.dec block key) →
    run.wellFormed = true →
    ∃ acts, assembleLine run = some acts ∧ assemble [command, .wait] = some acts ∧
      ∃ k t, k ≤ 18 ∧ Sys2Proof.core.run k (s.withScript acts) = .next t ∧
        (t.phase = .done ∨ t.phase = .error) ∧ t.host = [] ∧ t.ports.start = false ∧
        (block.length = 8 → key.length = 8 → t.phase = .done ∧
          t.result = some (cipher tables (portOfBytes block) (portOfBytes key) m))

/-- R86: what a command line puts on the ports: the declared lengths are the operands' lengths, the mode
comes from the mnemonic, each data port carries the first eight bytes of its operand left-justified
with zeros after them; and a line with an operand of more than 15 bytes has no command word. -/
def Obligations.CommandLineDrivesThePorts : Prop :=
  ∀ (m : Mode) (block key : List Byte) (line : HostLine),
    line = (match m with | .encrypt => HostLine.enc block key | .decrypt => HostLine.dec block key) →
    (block.length ≤ 15 → key.length ≤ 15 → ∃ p, assembleLine line = some [.drive p] ∧
      p.rst = false ∧ p.start = true ∧ Mode.ofBit (p.cmd.extractLsb' 0 1) = m ∧
      (p.cmd.extractLsb' 1 4).toNat = block.length ∧ (p.cmd.extractLsb' 5 4).toNat = key.length ∧
      ∀ i, i < 8 → p.blockIn.extractLsb' (56 - 8 * i) 8 = block.getD i 0#8 ∧
        p.keyIn.extractLsb' (56 - 8 * i) 8 = key.getD i 0#8) ∧
    (15 < block.length ∨ 15 < key.length → assembleLine line = none)

/-! ## Key schedule -/

/-- R112: `ROL1`, bit by bit in stream order, as numbers, and its laws: each half's first bit re-enters at
the back of the same half, an all-zero or all-ones half is unchanged, 28 applications are the identity,
and `ROR1` undoes it. -/
def Obligations.RotateLeftByOne : Prop :=
  ∀ cd : KeyReg,
    (∀ k, k < 28 → (cHalf (rol1 cd)).getMsbD k = (cHalf cd).getMsbD ((k + 1) % 28) ∧
      (dHalf (rol1 cd)).getMsbD k = (dHalf cd).getMsbD ((k + 1) % 28)) ∧
    (∀ k, k ≤ 26 ∨ (28 ≤ k ∧ k ≤ 54) → (rol1 cd).getMsbD k = cd.getMsbD (k + 1)) ∧
    (rol1 cd).getMsbD 27 = cd.getMsbD 0 ∧ (rol1 cd).getMsbD 55 = cd.getMsbD 28 ∧
    (cHalf (rol1 cd)).toNat = ((cHalf cd).toNat <<< 1 ||| (cHalf cd).toNat >>> 27) % 2 ^ 28 ∧
    (dHalf (rol1 cd)).toNat = ((dHalf cd).toNat <<< 1 ||| (dHalf cd).toNat >>> 27) % 2 ^ 28 ∧
    (∀ h ∈ [0#28, BitVec.allOnes 28],
      (cHalf cd = h → cHalf (rol1 cd) = h) ∧ (dHalf cd = h → dHalf (rol1 cd) = h)) ∧
    rotL cd 28 = cd ∧ ror1 (rol1 cd) = cd

/-- R113: `ROR1`, in the same terms. -/
def Obligations.RotateRightByOne : Prop :=
  ∀ cd : KeyReg,
    (∀ k, k < 28 → (cHalf (ror1 cd)).getMsbD k = (cHalf cd).getMsbD ((k + 27) % 28) ∧
      (dHalf (ror1 cd)).getMsbD k = (dHalf cd).getMsbD ((k + 27) % 28)) ∧
    (∀ k, (1 ≤ k ∧ k ≤ 27) ∨ (29 ≤ k ∧ k ≤ 55) → (ror1 cd).getMsbD k = cd.getMsbD (k - 1)) ∧
    (ror1 cd).getMsbD 0 = cd.getMsbD 27 ∧ (ror1 cd).getMsbD 28 = cd.getMsbD 55 ∧
    (cHalf (ror1 cd)).toNat = ((cHalf cd).toNat >>> 1 ||| ((cHalf cd).toNat &&& 1) <<< 27) ∧
    (dHalf (ror1 cd)).toNat = ((dHalf cd).toNat >>> 1 ||| ((dHalf cd).toNat &&& 1) <<< 27) ∧
    (∀ h ∈ [0#28, BitVec.allOnes 28],
      (cHalf cd = h → cHalf (ror1 cd) = h) ∧ (dHalf cd = h → dHalf (ror1 cd) = h)) ∧
    rotR cd 28 = cd ∧ rol1 (ror1 cd) = cd

/-- R114: the rotation amounts of all sixteen rounds in both modes, that one row mirrors the other, and
that each sums to 28. -/
def Obligations.RotationAmounts : Prop :=
  (List.range 16).map (rotAmt .encrypt) = [1, 1, 2, 2, 2, 2, 2, 2, 1, 2, 2, 2, 2, 2, 2, 1] ∧
  (List.range 16).map (rotAmt .decrypt) = [1, 2, 2, 2, 2, 2, 2, 1, 2, 2, 2, 2, 2, 2, 1, 1] ∧
  (∀ r, r < 16 → rotAmt .decrypt r = rotAmt .encrypt (15 - r)) ∧
  ((List.range 16).map (rotAmt .encrypt)).sum = 28 ∧ ((List.range 16).map (rotAmt .decrypt)).sum = 28

/-- R115: rotating by `n` = 1 or 2 moves every bit of each half by `n` places within its half. -/
def Obligations.RotateByOneOrTwo : Prop :=
  ∀ (cd : KeyReg) (n k : Nat), n = 1 ∨ n = 2 → k < 28 →
    (cHalf (rotL cd n)).getMsbD k = (cHalf cd).getMsbD ((k + n) % 28) ∧
    (dHalf (rotL cd n)).getMsbD k = (dHalf cd).getMsbD ((k + n) % 28) ∧
    (cHalf (rotR cd n)).getMsbD k = (cHalf cd).getMsbD ((k + 28 - n) % 28) ∧
    (dHalf (rotR cd n)).getMsbD k = (dHalf cd).getMsbD ((k + 28 - n) % 28)

/-- R121, R184: the generic rotate: LengthError with the actual length unless the sequence is exactly 7
bytes, and then the rotation of the register those bytes are. -/
def Obligations.GenericRotateChecksLength : Prop :=
  ∀ reg : List Byte,
    (reg.length ≠ 7 → rol1Bytes reg = .error (.lengthError reg.length) ∧
      ror1Bytes reg = .error (.lengthError reg.length)) ∧
    (reg.length = 7 →
      (∃ out, rol1Bytes reg = .result out ∧ out.length = 7 ∧
        vecOfBytes 56 out = rol1 (vecOfBytes 56 reg)) ∧
      ∃ out, ror1Bytes reg = .result out ∧ out.length = 7 ∧
        vecOfBytes 56 out = ror1 (vecOfBytes 56 reg))

/-- R119: the closed form of the subkeys, for every `TABLES` and every loaded register: encrypt round `r`
uses the register rotated left by the sum of the amounts up to `r`, decrypt round `r` by 28 less the
sum of the decrypt amounts before `r`. -/
def Obligations.SubkeysInClosedForm : Prop :=
  ∀ (T : Tables) (cd : KeyReg) (r : Nat), r < 16 →
    roundSubkey T .encrypt cd r =
      subkey T (rotL cd (((List.range (r + 1)).map (rotAmt .encrypt)).sum)) ∧
    roundSubkey T .decrypt cd r =
      subkey T (rotL cd (28 - ((List.range r).map (rotAmt .decrypt)).sum))

/-- R120: the mirror property, for every `TABLES`: decrypt subkey order is the exact reverse of encrypt
subkey order, and after round 15 the register is what KINIT loaded, in both modes. -/
def Obligations.DecryptSubkeysMirrorEncryptSubkeys : Prop :=
  ∀ (T : Tables) (cd : KeyReg),
    (∀ r, r < 16 → roundSubkey T .decrypt cd r = roundSubkey T .encrypt cd (15 - r)) ∧
    ∀ m, keyRegAt T m cd 16 = cd

/-- R123: a key bit that no entry of PC1 selects influences nothing, for every `TABLES`; with the spec's
default PC1 (log entry 4) these are the last bits of the key's bytes. -/
def Obligations.DroppedKeyBitsInfluenceNothing : Prop :=
  (∀ (T : Tables) (k₁ k₂ : Key) (p : Block) (m : Mode),
    (∀ q ∈ T.pc1, k₁.getMsbD (q - 1) = k₂.getMsbD (q - 1)) → cipher T p k₁ m = cipher T p k₂ m) ∧
  ∀ (k₁ k₂ : Key) (p : Block) (m : Mode),
    (∀ i, i < 64 → i % 8 ≠ 7 → k₁.getMsbD i = k₂.getMsbD i) →
    cipher defaultTables p k₁ m = cipher defaultTables p k₂ m

/-! ## Permutations, the S-boxes and the byte utilities -/

/-- R94: a network's output bit `i` is source bit `T[i] - 1`, whatever the source's length and however
often a position occurs; the empty table gives the empty string and the identity table the source. For
an entry 0 or past the source, outside R94's precondition, the first clause is of the model's own choice
(log entry 14). -/
def Obligations.PermuteWiresEachOutputBit : Prop :=
  (∀ (src out : Nat) (s : BitVec src) (t : List Nat) (i q : Nat), t.length = out → t[i]? = some q →
    (permuteNet out s t).getMsbD i = s.getMsbD (q - 1)) ∧
  (∀ (src : Nat) (s : BitVec src), permuteNet 0 s [] = 0#0) ∧
  ∀ (src : Nat) (s : BitVec src), permuteNet src s ((List.range src).map (· + 1)) = s

/-- R96, R110, R116, R130, R135: the six networks of a `TABLES` that meets R43 (1) and (2), as every
admissible one does, are wiring: every output bit of each is one bit of its source, and the position its
table names lies in the source. -/
def Obligations.SixNetworksAreWiring : Prop :=
  ∀ T : Tables, T.lengthsOk = true → T.rangesOk = true →
    (∀ (b : Block) i, i < 64 → ∃ q, T.ip[i]? = some q ∧ 1 ≤ q ∧ q ≤ 64 ∧
      (permuteNet 64 b T.ip).getMsbD i = b.getMsbD (q - 1)) ∧
    (∀ (b : Block) i, i < 64 → ∃ q, T.fp[i]? = some q ∧ 1 ≤ q ∧ q ≤ 64 ∧
      (permuteNet 64 b T.fp).getMsbD i = b.getMsbD (q - 1)) ∧
    (∀ (k : Key) i, i < 56 → ∃ q, T.pc1[i]? = some q ∧ 1 ≤ q ∧ q ≤ 64 ∧
      (kinit T k).getMsbD i = k.getMsbD (q - 1)) ∧
    (∀ (cd : KeyReg) i, i < 48 → ∃ q, T.pc2[i]? = some q ∧ 1 ≤ q ∧ q ≤ 56 ∧
      (subkey T cd).getMsbD i = cd.getMsbD (q - 1)) ∧
    (∀ (r : Half) i, i < 48 → ∃ q, T.e[i]? = some q ∧ 1 ≤ q ∧ q ≤ 32 ∧
      (expand T r).getMsbD i = r.getMsbD (q - 1)) ∧
    (∀ (y : Half) i, i < 32 → ∃ q, T.p[i]? = some q ∧ 1 ≤ q ∧ q ≤ 32 ∧
      (pbox T y).getMsbD i = y.getMsbD (q - 1))

/-- R95, R183: byte-level `permute`: an entry 0 is refused (that this comes first is the model's choice,
log entry 12); an entry past the source is a RangeError that
carries the largest entry and the source's bit length, whatever the length of the table; a table whose
length is no multiple of 8 is refused; otherwise the result has a byte for eight entries and its bits
are PERMUTE of the source's bits. -/
def Obligations.BytePermuteChecksThenPermutes : Prop :=
  ∀ (b : List Byte) (t : List Nat),
    (0 ∈ t → permuteBytes b t = .refused .entryZero) ∧
    (0 ∉ t → (∃ q ∈ t, 8 * b.length < q) → ∃ m ∈ t, (∀ q ∈ t, q ≤ m) ∧
      permuteBytes b t = .error (.rangeError m (8 * b.length))) ∧
    ((∀ q ∈ t, 1 ≤ q ∧ q ≤ 8 * b.length) → t.length % 8 ≠ 0 →
      permuteBytes b t = .refused .partialByteTable) ∧
    ((∀ q ∈ t, 1 ≤ q ∧ q ≤ 8 * b.length) → t.length % 8 = 0 →
      ∃ out, permuteBytes b t = .result out ∧ out.length = t.length / 8 ∧
        bitsOfBytes out = permuteList (bitsOfBytes b) t)

/-- R93, R182: `XORB`: LengthMismatch with both lengths when they differ and nothing is computed;
otherwise the bitwise exclusive or, as long as its operands; with itself it is all zero, and with zeros
it is the other operand. -/
def Obligations.XorChecksLengths : Prop :=
  ∀ a b : List Byte,
    (a.length ≠ b.length → xorBytes a b = .error (.lengthMismatch a.length b.length)) ∧
    (a.length = b.length → ∃ out, xorBytes a b = .result out ∧ out.length = a.length ∧
      ∀ k, k < 8 * a.length →
        (bitsOfBytes out)[k]? = some ((bitsOfBytes a).getD k false ^^ (bitsOfBytes b).getD k false)) ∧
    xorBytes a a = .result (List.replicate a.length 0#8) ∧
    xorBytes a (List.replicate a.length 0#8) = .result a

/-- R90, R91, R92: the single-bit utilities in stream order: GETBIT reads bit `k`; SETBIT and CLRBIT
change bit `k` and no other and keep the length; a bit number past the end is refused by all three. -/
def Obligations.BitUtilitiesAddressOneBit : Prop :=
  ∀ (b : List Byte) (k : Nat),
    (8 * b.length ≤ k → getBit b k = .refused .bitPastEnd ∧ setBit b k = .refused .bitPastEnd ∧
      clrBit b k = .refused .bitPastEnd) ∧
    (k < 8 * b.length →
      getBit b k = .result (BitVec.ofBool ((bitsOfBytes b).getD k false)) ∧
      (∃ out, setBit b k = .result out ∧ out.length = b.length ∧
        ∀ m, m < 8 * b.length →
          (bitsOfBytes out)[m]? = some (decide (m = k) || (bitsOfBytes b).getD m false)) ∧
      ∃ out, clrBit b k = .result out ∧ out.length = b.length ∧
        ∀ m, m < 8 * b.length →
          (bitsOfBytes out)[m]? = some (!decide (m = k) && (bitsOfBytes b).getD m false))

/-- R132, R133, R134: `SUBST`: nibble `j` of the result is the entry of table `j` that the 6-bit group `j`
addresses, the group's first bit the most significant of the index; no lane depends on another. -/
def Obligations.SubstLooksUpEightLanes : Prop :=
  ∀ (T : Tables) (x : Subkey) (j : Nat), j < 8 →
    streamSlice (subst T x) (4 * j) 4 = romRead T j (streamSlice x (6 * j) 6).toNat ∧
    (streamSlice x (6 * j) 6).toNat =
      32 * (x.getMsbD (6 * j)).toNat + 16 * (x.getMsbD (6 * j + 1)).toNat +
        8 * (x.getMsbD (6 * j + 2)).toNat + 4 * (x.getMsbD (6 * j + 3)).toNat +
        2 * (x.getMsbD (6 * j + 4)).toNat + (x.getMsbD (6 * j + 5)).toNat

/-- R41: `RomRead(j, i)` is the entry at flat address `64*j + i`; every address 0 to 511 is populated. -/
def Obligations.RomReadIsTheFlatRead : Prop :=
  ∀ T : Tables, T.sboxOk = true → (rom T).length = 512 ∧
    ∀ j i, j < 8 → i < 64 → (rom T)[romAddress j i]? = some (romRead T j i)

/-- R136: the round function is its four steps in order, and the expanded half and the subkey enter only
through their exclusive or. -/
def Obligations.RoundFunctionIsItsFourSteps : Prop :=
  ∀ (T : Tables) (r : Half) (k : Subkey),
    roundF T r k = permuteNet 32 (subst T (permuteNet 48 r T.e ^^^ k)) T.p ∧
    ∀ (r' : Half) (k' : Subkey), permuteNet 48 r T.e ^^^ k = permuteNet 48 r' T.e ^^^ k' →
      roundF T r k = roundF T r' k'

/-- R43: the spec's default tables (general knowledge, log entry 4) are an admissible `TABLES`. -/
def Obligations.DefaultTablesAreAdmissible : Prop := tables.admissible = true

/-- R74: the byte sequence on a 64-bit port: byte `m` is `p[63-8m : 56-8m]`, stream bit `k` is `p[63-k]`,
the port's number is the big-endian value, and the two views are inverse to each other; and the stream
bits of the registers stand in the same order. -/
def Obligations.PortCarriesBytesFirstByteHighest : Prop :=
  (∀ p : BitVec 64, (bytesOfPort p).length = 8 ∧ portOfBytes (bytesOfPort p) = p ∧
    ∀ m, m < 8 → (bytesOfPort p)[m]? = some (p.extractLsb' (56 - 8 * m) 8)) ∧
  (∀ b : List Byte, b.length = 8 →
    bytesOfPort (portOfBytes b) = b ∧ (portOfBytes b).toNat = numOfBytes b ∧
    ∀ k, k < 64 → (bitsOfBytes b)[k]? = some ((portOfBytes b).getLsbD (63 - k))) ∧
  (∀ (l : Half) (k : Nat), k < 32 → l.getLsbD (31 - k) = l.getMsbD k) ∧
  ∀ (cd : KeyReg) (k : Nat), k < 56 → cd.getLsbD (55 - k) = cd.getMsbD k

/-- R82, R83, R72: the codes of the phases, of the error classes and of the mode. -/
def Obligations.StatusCodes : Prop :=
  Phase.idle.code = 0#2 ∧ Phase.busy.code = 1#2 ∧ Phase.done.code = 2#2 ∧ Phase.error.code = 3#2 ∧
  ErrCode.none.code = 0#3 ∧ ErrCode.sizeMismatch.code = 1#3 ∧ ErrCode.lengthMismatch.code = 2#3 ∧
  ErrCode.rangeError.code = 3#3 ∧ ErrCode.lengthError.code = 4#3 ∧
  Mode.encrypt.bit = 0#1 ∧ Mode.decrypt.bit = 1#1 ∧
  (∀ p : Phase, Phase.ofCode p.code = p) ∧ (∀ m : Mode, Mode.ofBit m.bit = m) ∧
  (∀ e : ErrCode, e.code.toNat ≤ 4)
end

