-- ==== Sys2Proof/Laws/Bits.lean ====
section
/-! SUPPORT. What the wiring networks and the cuts of a bit string do, bit by bit. -/

namespace Sys2Proof.Machine

/-- R43: an admissible `TABLES` meets each of the seven conditions, and nothing else is asked. -/
theorem admissible_iff (T : Tables) :
    T.admissible = true ↔
      T.lengthsOk = true ∧ T.rangesOk = true ∧ T.dropsKeyBits = true ∧ T.expansionDuplicates = true ∧
        T.sboxOk = true ∧ T.finalInvertsInitial = true ∧ T.meetsFixture = true := by
  simp only [Tables.admissible, Bool.and_eq_true, and_assoc]

/-- R94 as a rule about every output wire of a network whose table has as many entries. -/
theorem getMsbD_permuteNet {src out : Nat} (s : BitVec src) (t : List Nat) (h : t.length = out)
    (i : Nat) : (permuteNet out s t).getMsbD i = (t.map fun q => s.getMsbD (q - 1)).getD i false := by
  subst h
  have hl : (t.map fun q => s.getMsbD (q - 1)).length = t.length := List.length_map ..
  unfold permuteNet
  rw [← hl, BitVec.setWidth_eq, BitVec.getMsbD_ofBoolListBE]

/-- R13: stream bit `k` of a cut is stream bit `a + k` of the whole. -/
theorem getMsbD_streamSlice {n : Nat} (s : BitVec n) (a len k : Nat) (h : a + len ≤ n) :
    (streamSlice s a len).getMsbD k = (decide (k < len) && s.getMsbD (a + k)) := by
  by_cases hk : k < len
  · have hn : a + k < n := by omega
    simp only [streamSlice, BitVec.getMsbD, hk, hn, decide_true, Bool.true_and,
      BitVec.getLsbD_extractLsb']
    have h1 : len - 1 - k < len := by omega
    have h2 : n - (a + len) + (len - 1 - k) = n - 1 - (a + k) := by omega
    simp [h1, h2]
  · simp [BitVec.getMsbD, hk]

/-- R15: a cut within the first operand of a concatenation. -/
theorem streamSlice_append_left {m n : Nat} (x : BitVec m) (y : BitVec n) (a len : Nat)
    (h : a + len ≤ m) : streamSlice (x ++ y) a len = streamSlice x a len := by
  apply BitVec.eq_of_getMsbD_eq
  intro i hi
  rw [getMsbD_streamSlice _ _ _ _ (by omega), getMsbD_streamSlice _ _ _ _ h, BitVec.getMsbD_append,
    if_neg (by omega)]

/-- R15: a cut within the second operand of a concatenation. -/
theorem streamSlice_append_right {m n : Nat} (x : BitVec m) (y : BitVec n) (a len : Nat)
    (h : a + len ≤ n) : streamSlice (x ++ y) (m + a) len = streamSlice y a len := by
  apply BitVec.eq_of_getMsbD_eq
  intro i hi
  rw [getMsbD_streamSlice _ _ _ _ (by omega), getMsbD_streamSlice _ _ _ _ h, BitVec.getMsbD_append,
    if_pos (by omega)]
  congr 2; omega

/-- R111: the key register is its two halves. -/
theorem cHalf_append_dHalf (cd : KeyReg) : cHalf cd ++ dHalf cd = cd := by
  ext i hi
  simp only [cHalf, dHalf, streamSlice, BitVec.getElem_append, BitVec.getElem_extractLsb']
  split
  · simp [BitVec.getLsbD_eq_getElem, hi]
  · have : 28 + (i - 28) = i := by omega
    simp [this, BitVec.getLsbD_eq_getElem, hi]

@[simp] theorem cHalf_append (c d : HalfKey) : cHalf (c ++ d) = c := by
  ext i hi
  have h := BitVec.getLsbD_append (x := c) (y := d) (i := 28 + i)
  simpa [cHalf, streamSlice, BitVec.getLsbD_eq_getElem, hi] using h

@[simp] theorem dHalf_append (c d : HalfKey) : dHalf (c ++ d) = d := by
  ext i hi
  have h := BitVec.getLsbD_append (x := c) (y := d) (i := i)
  simpa [dHalf, streamSlice, BitVec.getLsbD_eq_getElem, hi] using h

end Sys2Proof.Machine
end

