-- ==== Sys2Proof/Laws/State.lean ====
section
/-! SUPPORT. One lemma per field per named update of State, so that no proof unfolds a record update. -/

namespace Sys2Proof.Machine

variable (s : State)

@[simp] theorem State.beginCommand_l : s.beginCommand.l = s.l := rfl
@[simp] theorem State.beginCommand_r : s.beginCommand.r = s.r := rfl
@[simp] theorem State.beginCommand_cd : s.beginCommand.cd = s.cd := rfl
@[simp] theorem State.beginCommand_mode : s.beginCommand.mode = s.mode := rfl
@[simp] theorem State.beginCommand_rc : s.beginCommand.rc = s.rc := rfl
@[simp] theorem State.beginCommand_phase : s.beginCommand.phase = s.phase := rfl
@[simp] theorem State.beginCommand_result : s.beginCommand.result = none := rfl
@[simp] theorem State.beginCommand_errcode : s.beginCommand.errcode = .none := rfl
@[simp] theorem State.beginCommand_errexp : s.beginCommand.errexp = none := rfl
@[simp] theorem State.beginCommand_erract : s.beginCommand.erract = none := rfl
@[simp] theorem State.beginCommand_ports : s.beginCommand.ports = s.ports := rfl
@[simp] theorem State.beginCommand_host : s.beginCommand.host = s.host := rfl

@[simp] theorem State.raiseSizeMismatch_l (x a : LenField) : (s.raiseSizeMismatch x a).l = none := rfl
@[simp] theorem State.raiseSizeMismatch_r (x a : LenField) : (s.raiseSizeMismatch x a).r = none := rfl
@[simp] theorem State.raiseSizeMismatch_cd (x a : LenField) : (s.raiseSizeMismatch x a).cd = none := rfl
@[simp] theorem State.raiseSizeMismatch_mode (x a : LenField) : (s.raiseSizeMismatch x a).mode = s.mode := rfl
@[simp] theorem State.raiseSizeMismatch_rc (x a : LenField) : (s.raiseSizeMismatch x a).rc = 0#5 := rfl
@[simp] theorem State.raiseSizeMismatch_phase (x a : LenField) : (s.raiseSizeMismatch x a).phase = .error := rfl
@[simp] theorem State.raiseSizeMismatch_result (x a : LenField) : (s.raiseSizeMismatch x a).result = none := rfl
@[simp] theorem State.raiseSizeMismatch_errcode (x a : LenField) : (s.raiseSizeMismatch x a).errcode = .sizeMismatch := rfl
@[simp] theorem State.raiseSizeMismatch_errexp (x a : LenField) : (s.raiseSizeMismatch x a).errexp = some x := rfl
@[simp] theorem State.raiseSizeMismatch_erract (x a : LenField) : (s.raiseSizeMismatch x a).erract = some a := rfl
@[simp] theorem State.raiseSizeMismatch_ports (x a : LenField) : (s.raiseSizeMismatch x a).ports = s.ports := rfl
@[simp] theorem State.raiseSizeMismatch_host (x a : LenField) : (s.raiseSizeMismatch x a).host = s.host := rfl

@[simp] theorem State.load_l (T : Tables) (m : Mode) :
    (s.load T m).l = some (streamSlice (permuteNet 64 s.ports.blockIn T.ip) 0 32) := rfl
@[simp] theorem State.load_r (T : Tables) (m : Mode) :
    (s.load T m).r = some (streamSlice (permuteNet 64 s.ports.blockIn T.ip) 32 32) := rfl
@[simp] theorem State.load_cd (T : Tables) (m : Mode) :
    (s.load T m).cd = some (kinit T s.ports.keyIn) := rfl
@[simp] theorem State.load_mode (T : Tables) (m : Mode) :
    (s.load T m).mode = some m := rfl
@[simp] theorem State.load_rc (T : Tables) (m : Mode) :
    (s.load T m).rc = 0#5 := rfl
@[simp] theorem State.load_phase (T : Tables) (m : Mode) :
    (s.load T m).phase = .busy := rfl
@[simp] theorem State.load_result (T : Tables) (m : Mode) :
    (s.load T m).result = s.result := rfl
@[simp] theorem State.load_errcode (T : Tables) (m : Mode) :
    (s.load T m).errcode = s.errcode := rfl
@[simp] theorem State.load_errexp (T : Tables) (m : Mode) :
    (s.load T m).errexp = s.errexp := rfl
@[simp] theorem State.load_erract (T : Tables) (m : Mode) :
    (s.load T m).erract = s.erract := rfl
@[simp] theorem State.load_ports (T : Tables) (m : Mode) :
    (s.load T m).ports = s.ports := rfl
@[simp] theorem State.load_host (T : Tables) (m : Mode) :
    (s.load T m).host = s.host := rfl

@[simp] theorem State.feistelUpdate_l (T : Tables) (x y : Half) (st : KeyReg × Subkey) :
    (s.feistelUpdate T x y st).l = some y := rfl
@[simp] theorem State.feistelUpdate_r (T : Tables) (x y : Half) (st : KeyReg × Subkey) :
    (s.feistelUpdate T x y st).r = some (x ^^^ roundF T y st.2) := rfl
@[simp] theorem State.feistelUpdate_cd (T : Tables) (x y : Half) (st : KeyReg × Subkey) :
    (s.feistelUpdate T x y st).cd = some st.1 := rfl
@[simp] theorem State.feistelUpdate_mode (T : Tables) (x y : Half) (st : KeyReg × Subkey) :
    (s.feistelUpdate T x y st).mode = s.mode := rfl
@[simp] theorem State.feistelUpdate_rc (T : Tables) (x y : Half) (st : KeyReg × Subkey) :
    (s.feistelUpdate T x y st).rc = s.rc + 1#5 := rfl
@[simp] theorem State.feistelUpdate_phase (T : Tables) (x y : Half) (st : KeyReg × Subkey) :
    (s.feistelUpdate T x y st).phase = s.phase := rfl
@[simp] theorem State.feistelUpdate_result (T : Tables) (x y : Half) (st : KeyReg × Subkey) :
    (s.feistelUpdate T x y st).result = s.result := rfl
@[simp] theorem State.feistelUpdate_errcode (T : Tables) (x y : Half) (st : KeyReg × Subkey) :
    (s.feistelUpdate T x y st).errcode = s.errcode := rfl
@[simp] theorem State.feistelUpdate_errexp (T : Tables) (x y : Half) (st : KeyReg × Subkey) :
    (s.feistelUpdate T x y st).errexp = s.errexp := rfl
@[simp] theorem State.feistelUpdate_erract (T : Tables) (x y : Half) (st : KeyReg × Subkey) :
    (s.feistelUpdate T x y st).erract = s.erract := rfl
@[simp] theorem State.feistelUpdate_ports (T : Tables) (x y : Half) (st : KeyReg × Subkey) :
    (s.feistelUpdate T x y st).ports = s.ports := rfl
@[simp] theorem State.feistelUpdate_host (T : Tables) (x y : Half) (st : KeyReg × Subkey) :
    (s.feistelUpdate T x y st).host = s.host := rfl

@[simp] theorem State.finishWith_l (T : Tables) (x y : Half) :
    (s.finishWith T x y).l = none := rfl
@[simp] theorem State.finishWith_r (T : Tables) (x y : Half) :
    (s.finishWith T x y).r = none := rfl
@[simp] theorem State.finishWith_cd (T : Tables) (x y : Half) :
    (s.finishWith T x y).cd = none := rfl
@[simp] theorem State.finishWith_mode (T : Tables) (x y : Half) :
    (s.finishWith T x y).mode = s.mode := rfl
@[simp] theorem State.finishWith_rc (T : Tables) (x y : Half) :
    (s.finishWith T x y).rc = s.rc := rfl
@[simp] theorem State.finishWith_phase (T : Tables) (x y : Half) :
    (s.finishWith T x y).phase = .done := rfl
@[simp] theorem State.finishWith_result (T : Tables) (x y : Half) :
    (s.finishWith T x y).result = some (cipherFinish T x y) := rfl
@[simp] theorem State.finishWith_errcode (T : Tables) (x y : Half) :
    (s.finishWith T x y).errcode = s.errcode := rfl
@[simp] theorem State.finishWith_errexp (T : Tables) (x y : Half) :
    (s.finishWith T x y).errexp = s.errexp := rfl
@[simp] theorem State.finishWith_erract (T : Tables) (x y : Half) :
    (s.finishWith T x y).erract = s.erract := rfl
@[simp] theorem State.finishWith_ports (T : Tables) (x y : Half) :
    (s.finishWith T x y).ports = s.ports := rfl
@[simp] theorem State.finishWith_host (T : Tables) (x y : Half) :
    (s.finishWith T x y).host = s.host := rfl

@[simp] theorem State.resetRegisters_l : s.resetRegisters.l = none := rfl
@[simp] theorem State.resetRegisters_r : s.resetRegisters.r = none := rfl
@[simp] theorem State.resetRegisters_cd : s.resetRegisters.cd = none := rfl
@[simp] theorem State.resetRegisters_mode : s.resetRegisters.mode = none := rfl
@[simp] theorem State.resetRegisters_rc : s.resetRegisters.rc = 0#5 := rfl
@[simp] theorem State.resetRegisters_phase : s.resetRegisters.phase = .idle := rfl
@[simp] theorem State.resetRegisters_result : s.resetRegisters.result = none := rfl
@[simp] theorem State.resetRegisters_errcode : s.resetRegisters.errcode = .none := rfl
@[simp] theorem State.resetRegisters_errexp : s.resetRegisters.errexp = none := rfl
@[simp] theorem State.resetRegisters_erract : s.resetRegisters.erract = none := rfl
@[simp] theorem State.resetRegisters_ports : s.resetRegisters.ports = s.ports := rfl
@[simp] theorem State.resetRegisters_host : s.resetRegisters.host = s.host := rfl

@[simp] theorem State.advanceHost_l : s.advanceHost.l = s.l := rfl
@[simp] theorem State.advanceHost_r : s.advanceHost.r = s.r := rfl
@[simp] theorem State.advanceHost_cd : s.advanceHost.cd = s.cd := rfl
@[simp] theorem State.advanceHost_mode : s.advanceHost.mode = s.mode := rfl
@[simp] theorem State.advanceHost_rc : s.advanceHost.rc = s.rc := rfl
@[simp] theorem State.advanceHost_phase : s.advanceHost.phase = s.phase := rfl
@[simp] theorem State.advanceHost_result : s.advanceHost.result = s.result := rfl
@[simp] theorem State.advanceHost_errcode : s.advanceHost.errcode = s.errcode := rfl
@[simp] theorem State.advanceHost_errexp : s.advanceHost.errexp = s.errexp := rfl
@[simp] theorem State.advanceHost_erract : s.advanceHost.erract = s.erract := rfl
@[simp] theorem State.advanceHost_ports : s.advanceHost.ports = (hostNext s.phase s.ports s.host).1 := rfl
@[simp] theorem State.advanceHost_host : s.advanceHost.host = (hostNext s.phase s.ports s.host).2 := rfl

@[simp] theorem State.registers_l : s.registers.l = s.l := rfl
@[simp] theorem State.registers_r : s.registers.r = s.r := rfl
@[simp] theorem State.registers_cd : s.registers.cd = s.cd := rfl
@[simp] theorem State.registers_mode : s.registers.mode = s.mode := rfl
@[simp] theorem State.registers_rc : s.registers.rc = s.rc := rfl
@[simp] theorem State.registers_phase : s.registers.phase = s.phase := rfl
@[simp] theorem State.registers_result : s.registers.result = s.result := rfl
@[simp] theorem State.registers_errcode : s.registers.errcode = s.errcode := rfl
@[simp] theorem State.registers_errexp : s.registers.errexp = s.errexp := rfl
@[simp] theorem State.registers_erract : s.registers.erract = s.erract := rfl
@[simp] theorem State.registers_ports : s.registers.ports = .quiet := rfl
@[simp] theorem State.registers_host : s.registers.host = [] := rfl

@[simp] theorem Ports.release_rst (p : Ports) : p.release.rst = false := rfl
@[simp] theorem Ports.release_start (p : Ports) : p.release.start = false := rfl
@[simp] theorem Ports.quiet_rst : Ports.quiet.rst = false := rfl
@[simp] theorem Ports.quiet_start : Ports.quiet.start = false := rfl

/-- Two states with the same ten registers have the same `registers`. -/
theorem State.registers_eq_iff (s t : State) :
    s.registers = t.registers ↔
      s.l = t.l ∧ s.r = t.r ∧ s.cd = t.cd ∧ s.mode = t.mode ∧ s.rc = t.rc ∧ s.phase = t.phase ∧
        s.result = t.result ∧ s.errcode = t.errcode ∧ s.errexp = t.errexp ∧ s.erract = t.erract := by
  simp [State.registers]

/-- The host moves no register. -/
@[simp] theorem State.advanceHost_registers : s.advanceHost.registers = s.registers := rfl

end Sys2Proof.Machine
end

