-- ==== Sys2Proof/Laws/Ops.lean ====
section
/-! SUPPORT. For each shared operation, once, everything it can answer. -/

namespace Sys2Proof.Machine

/-- R153, R181, R188: the size check passes exactly on 8 and 8. -/
theorem sizeViolation_eq_none {blen klen : LenField} :
    sizeViolation blen klen = none ↔ blen = 8#4 ∧ klen = 8#4 := by
  unfold sizeViolation
  have h (x : LenField) : x.toNat = 8 ↔ x = 8#4 := by
    rw [← BitVec.toNat_inj]; rfl
  simp only [Config.blockBytes, Config.keyBytes, ne_eq, h]
  split <;> simp_all

/-- R181: the length the size check reports is not 8. -/
theorem sizeViolation_ne {blen klen a : LenField} (h : sizeViolation blen klen = some a) : a ≠ 8#4 := by
  rintro rfl
  unfold sizeViolation at h
  split at h
  · simp_all
  · split at h <;> simp_all

/-- What a command step can answer with a next state. -/
theorem commandStep_next {T : Tables} {m : Mode} {blen klen : LenField} {s t : State}
    (h : commandStep T m blen klen s = .next t) :
    s.phase ≠ .busy ∧
      ((∃ a, sizeViolation blen klen = some a ∧ t = s.beginCommand.raiseSizeMismatch 8#4 a) ∨
        (sizeViolation blen klen = none ∧ t = s.beginCommand.load T m)) := by
  unfold commandStep at h
  split at h
  · cases h
  · rename_i hp
    refine ⟨hp, ?_⟩
    split at h
    · rename_i a ha
      cases h
      exact .inl ⟨a, ha, rfl⟩
    · rename_i ha
      cases h
      exact .inr ⟨ha, rfl⟩

/-- A command step never faults. -/
theorem commandStep_no_fault {T : Tables} {m : Mode} {blen klen : LenField} {s : State} {f : Fault} :
    commandStep T m blen klen s ≠ .fault f := by
  unfold commandStep
  split
  · simp
  · split <;> simp

/-- What a round step can answer with a next state. -/
theorem roundStep_next {T : Tables} {m : Mode} {rc : BitVec 5} {s t : State}
    (h : roundStep T m rc s = .next t) :
    s.phase = .busy ∧ s.mode = some m ∧ s.rc = rc ∧ rc.toNat < 16 ∧
      ∃ l r cd, s.l = some l ∧ s.r = some r ∧ s.cd = some cd ∧
        t = s.feistelUpdate T l r (kstep T m rc.toNat cd) := by
  unfold roundStep at h
  split at h
  · rename_i hs
    refine ⟨hs.1, hs.2.1, hs.2.2.1, hs.2.2.2, ?_⟩
    unfold withHalves withKeyReg at h
    split at h
    · rename_i l r hl hr
      split at h
      · rename_i cd hcd
        cases h
        exact ⟨l, r, cd, hl, hr, hcd, rfl⟩
      · cases h
    · cases h
    · cases h
  · cases h

/-- What `FINISH` can answer with a next state. -/
theorem finishStep_next {T : Tables} {s t : State} (h : finishStep T s = .next t) :
    s.phase = .busy ∧ s.rc.toNat = 16 ∧
      ∃ l r, s.l = some l ∧ s.r = some r ∧ t = s.finishWith T l r := by
  unfold finishStep at h
  split at h
  · rename_i hs
    refine ⟨hs.1, hs.2, ?_⟩
    unfold withHalves at h
    split at h
    · rename_i l r hl hr
      cases h
      exact ⟨l, r, hl, hr, rfl⟩
    · cases h
    · cases h
  · cases h

/-- With these plans the host leaves both strobes low, and keeps such a plan while `PHASE = BUSY`. -/
theorem hostNext_waits {plan : List HostAction} (h : waitsForResult plan) (p : Ports) :
    hostNext .busy p plan = (p.release, plan) := by
  rcases h with rfl | h
  · rfl
  · cases plan with
    | nil => rfl
    | cons a rest =>
      simp only [List.head?_cons, Option.some.injEq] at h
      subst h
      rfl

@[simp] theorem mapNext_next (f : State → State) (s : State) : mapNext f (.next s) = .next (f s) := rfl
@[simp] theorem mapNext_fault (f : State → State) (e : Fault) : mapNext f (.fault e) = .fault e := rfl
@[simp] theorem mapNext_refused (f : State → State) (e : Refusal) :
    mapNext f (.refused e) = .refused e := rfl

/-- An outcome carried through `mapNext` is a next state only from a next state. -/
theorem mapNext_eq_next {f : State → State} {o : Host.Outcome State Fault Refusal} {t : State}
    (h : mapNext f o = .next t) : ∃ u, o = .next u ∧ t = f u := by
  cases o with
  | next u => exact ⟨u, rfl, by simpa using h.symm⟩
  | fault e => cases h
  | refused e => cases h

end Sys2Proof.Machine
end

