-- ==== Sys2Proof/Laws/PerInstr.lean ====
section
/-! SUPPORT. The statements LAWS.json names per instruction. `EncodingSelectsItsRow`: the word a
well-formed instruction is encoded to selects that instruction's row of the opcode table and no other
row (R81, R85: "The rows are disjoint"). -/

namespace Sys2Proof.Laws.EncodingSelectsItsRow

/-- The encoding of `i` selects the row of `i` alone. -/
def Statement (i : Instr) : Prop := i.wellFormed = true → selectedRows (encode i) = [i.mnemonic]

theorem enc (blen klen : LenField) : Statement (.enc blen klen) := fun _ => by
  revert blen klen
  decide

theorem dec (blen klen : LenField) : Statement (.dec blen klen) := fun _ => by
  revert blen klen
  decide

theorem roundE (rc : BitVec 5) : Statement (.roundE rc) := by
  revert rc
  unfold Statement
  decide

theorem roundD (rc : BitVec 5) : Statement (.roundD rc) := by
  revert rc
  unfold Statement
  decide

theorem finish (m : Mode) : Statement (.finish m) := fun _ => by
  cases m <;> decide

theorem reset : Statement .reset := fun _ => by decide

end Sys2Proof.Laws.EncodingSelectsItsRow
end

