-- ==== Sys2Proof/Laws/Step.lean ====
section
/-! SUPPORT. Once, everything a step can do: `StepCase` lists the steps that end in a next state, and
`stepWith_next` says that there are no others. -/

namespace Sys2Proof.Machine

/-- The word the sequencer makes in BUSY decodes by `RC` and `MODE` alone (R81). -/
theorem decode_busyWord (m : Mode) (rc : BitVec 5) :
    decode (.seq (Phase.busy.code ++ m.bit ++ rc)) =
      if rc.toNat < 16 then
        match m with
        | .encrypt => .ok (.roundE rc)
        | .decrypt => .ok (.roundD rc)
      else if rc.toNat = 16 then .ok (.finish m) else .error .roundCounterOutOfRange := by
  revert rc
  cases m <;> decide

/-- A command word is `ENC` or `DEC` by its mode bit (R71, R72). -/
theorem execWith_decodeCmd (T : Tables) (w : BitVec 9) (s : State) :
    execWith T (decodeCmd w) s =
      commandStep T (Mode.ofBit (w.extractLsb' 0 1)) (w.extractLsb' 1 4) (w.extractLsb' 5 4) s := by
  unfold decodeCmd
  split <;> rename_i h <;> rw [h] <;> rfl

/-- The steps that end in a next state, before the host moves on: the state after the core's part. -/
inductive StepCase (T : Tables) (s : State) : State → Prop where
  /-- R210 -/
  | reset (hr : s.ports.rst = true) : StepCase T s s.resetRegisters
  /-- R186 -/
  | refuse (hr : s.ports.rst = false) (hs : s.ports.start = true) (hp : s.phase ≠ .busy)
      (a : LenField)
      (ha : sizeViolation (s.ports.cmd.extractLsb' 1 4) (s.ports.cmd.extractLsb' 5 4) = some a) :
      StepCase T s (s.beginCommand.raiseSizeMismatch 8#4 a)
  /-- R153 -/
  | accept (hr : s.ports.rst = false) (hs : s.ports.start = true) (hp : s.phase ≠ .busy)
      (ha : sizeViolation (s.ports.cmd.extractLsb' 1 4) (s.ports.cmd.extractLsb' 5 4) = none) :
      StepCase T s (s.beginCommand.load T (Mode.ofBit (s.ports.cmd.extractLsb' 0 1)))
  /-- R156 -/
  | round (hr : s.ports.rst = false) (hs : s.ports.start = false) (hp : s.phase = .busy) (m : Mode)
      (hm : s.mode = some m) (hrc : s.rc.toNat < 16) (l r : Half) (cd : KeyReg) (hl : s.l = some l)
      (hR : s.r = some r) (hcd : s.cd = some cd) :
      StepCase T s (s.feistelUpdate T l r (kstep T m s.rc.toNat cd))
  /-- R157 -/
  | finish (hr : s.ports.rst = false) (hs : s.ports.start = false) (hp : s.phase = .busy)
      (hrc : s.rc.toNat = 16) (l r : Half) (hl : s.l = some l) (hR : s.r = some r) :
      StepCase T s (s.finishWith T l r)
  /-- R158: no step to take -/
  | idle (hr : s.ports.rst = false) (hs : s.ports.start = false) (hp : s.phase ≠ .busy) :
      StepCase T s s

/-- Everything a step can do when it answers a next state. -/
theorem stepWith_next {T : Tables} {s t : State} (h : stepWith T s = .next t) :
    ∃ u, StepCase T s u ∧ t = u.advanceHost := by
  unfold stepWith stepBy State.fetch at h
  split at h
  · cases h
  · -- no word
    rename_i hf
    split at hf
    · cases hf
    · rename_i hr
      split at hf
      · cases hf
      · rename_i hs
        split at hf
        · split at hf <;> cases hf
        · rename_i hp
          cases h
          exact ⟨s, .idle (by simpa using hr) (by simpa using hs) hp, rfl⟩
  · rename_i w hf
    split at hf
    · -- RESET
      rename_i hr
      cases hf
      obtain ⟨u, hu, rfl⟩ := mapNext_eq_next h
      cases hu
      exact ⟨_, .reset hr, rfl⟩
    · rename_i hr
      split at hf
      · -- a command
        rename_i hs
        cases hf
        simp only [decode] at h
        obtain ⟨u, hu, rfl⟩ := mapNext_eq_next h
        rw [execWith_decodeCmd] at hu
        obtain ⟨hp, ⟨a, ha, rfl⟩ | ⟨ha, rfl⟩⟩ := commandStep_next hu
        · exact ⟨_, .refuse (by simpa using hr) hs hp a ha, rfl⟩
        · exact ⟨_, .accept (by simpa using hr) hs hp ha, rfl⟩
      · rename_i hs
        split at hf
        · -- the sequencer
          rename_i hp
          split at hf
          · rename_i w' hw
            cases hf
            unfold State.seqWord at hw
            cases hm : s.mode with
            | none => simp [hm] at hw
            | some m =>
              simp only [hm, Option.map_some, Option.some.injEq, hp] at hw
              rw [← hw, decode_busyWord] at h
              split at h
              · cases h
              · rename_i i hi
                obtain ⟨u, hu, rfl⟩ := mapNext_eq_next h
                split at hi
                · rename_i hrc
                  have hround : execWith T i s = roundStep T m s.rc s := by
                    cases m <;> cases hi <;> rfl
                  rw [hround] at hu
                  obtain ⟨_, _, _, _, l, r, cd, hl, hR, hcd, rfl⟩ := roundStep_next hu
                  exact ⟨_, .round (by simpa using hr) (by simpa using hs) hp m hm hrc l r cd hl hR hcd,
                    rfl⟩
                · split at hi
                  · cases hi
                    obtain ⟨_, hrc, l, r, hl, hR, rfl⟩ := finishStep_next hu
                    exact ⟨_, .finish (by simpa using hr) (by simpa using hs) hp hrc l r hl hR, rfl⟩
                  · cases hi
          · cases hf
        · cases hf

/-- The machine's own step is the step over its own tables. -/
theorem step_eq_stepWith (s : State) : step s = stepWith tables s := by
  have : exec = execWith tables := by
    funext i s
    cases i <;> rfl
  unfold step stepWith
  rw [this]

end Sys2Proof.Machine
end

