-- ==== Sys2Proof/Tests/Slice0.lean ====
section
/-! SUPPORT. Tests. Expected results come from the spec: the encodings of spec/30_encoding.md, the worked
examples of the rules, and spec/95_test_vectors.md. The last part shows, for every obligation that has
hypotheses, concrete values that meet them, at the boundaries of their clauses. -/

namespace Sys2Proof.Tests

open Sys2Proof Sys2Proof.Machine

/-! ## Helpers -/

/-- A state with these levels at its ports. -/
def withPorts (s : State) (rst start : Bool) (cmd : BitVec 9) (block : Block) (key : Key) : State :=
  { s with ports := { rst := rst, start := start, cmd := cmd, blockIn := block, keyIn := key } }

/-- The block and the key of the spec's examples. -/
def exampleBlock : Block := 0x0123456789ABCDEF#64
def exampleKey : Key := 0x133457799BBCDFF1#64

/-- BUSY, with the halves and the key register given. -/
def busy (m : Mode) (rc : BitVec 5) (l r : Half) (cd : KeyReg) : State :=
  { State.reset with
    phase := .busy, mode := some m, rc := rc, l := some l, r := some r, cd := some cd }

/-- DONE with a result, as `FINISH` leaves it. -/
def done : State :=
  { State.reset with
    phase := .done, mode := some .encrypt, rc := 16#5, result := some 0x85E813540F0AB405#64 }

/-- ERROR, as a command with a block of four bytes leaves it. -/
def failed : State :=
  { State.reset with
    phase := .error, errcode := .sizeMismatch, errexp := some 8#4, erract := some 4#4 }

/-! ## Well-formedness: each check refuses an ill-formed term -/

theorem test_wf_roundE_16_refused : (Instr.roundE 16#5).wellFormed = false := by decide
theorem test_wf_roundE_15_accepted : (Instr.roundE 15#5).wellFormed = true := by decide
theorem test_wf_roundD_31_refused : (Instr.roundD 31#5).wellFormed = false := by decide
theorem test_wf_roundD_15_accepted : (Instr.roundD 15#5).wellFormed = true := by decide
theorem test_wf_enc_block_of_16_bytes_refused :
    (HostLine.enc (List.replicate 16 0#8) []).wellFormed = false := by decide
theorem test_wf_enc_key_of_16_bytes_refused :
    (HostLine.enc [] (List.replicate 16 0#8)).wellFormed = false := by decide
theorem test_wf_dec_operand_of_16_bytes_refused :
    (HostLine.dec (List.replicate 16 0#8) []).wellFormed = false := by decide
theorem test_wf_runE_operand_of_16_bytes_refused :
    (HostLine.runE [] (List.replicate 16 0#8)).wellFormed = false := by decide
theorem test_wf_runD_operand_of_16_bytes_refused :
    (HostLine.runD [] (List.replicate 16 0#8)).wellFormed = false := by decide
theorem test_wf_operands_of_15_bytes_accepted :
    (HostLine.runD (List.replicate 15 0#8) (List.replicate 15 0#8)).wellFormed = true := by decide

theorem test_wf_short_table_refused :
    Tables.lengthsOk { defaultTables with p := finalInputPerm.tail } = false := by decide
theorem test_wf_position_zero_refused :
    Tables.rangesOk { defaultTables with pc2 := 0 :: keyPerm2.tail } = false := by decide
theorem test_wf_position_past_source_refused :
    Tables.rangesOk { defaultTables with pc2 := 57 :: keyPerm2.tail } = false := by decide
theorem test_wf_too_few_dropped_key_bits_refused :
    Tables.dropsKeyBits { defaultTables with pc1 := 8 :: keyPerm1 } = false := by decide
theorem test_wf_expansion_without_duplicates_refused :
    Tables.expansionDuplicates { defaultTables with e := 1 :: inputExpansion.tail } = false := by decide
theorem test_wf_sbox_entry_16_refused :
    Tables.sboxOk { defaultTables with sbox := (16 :: sbox0.tail) :: defaultTables.sbox.tail } = false := by
  decide
theorem test_wf_sbox_of_63_entries_refused :
    Tables.sboxOk { defaultTables with sbox := sbox0.tail :: defaultTables.sbox.tail } = false := by decide
theorem test_wf_final_perm_not_inverse_refused :
    Tables.finalInvertsInitial { defaultTables with fp := initialPerm } = false := by decide
theorem test_wf_initial_perm_not_bijective_refused :
    Tables.finalInvertsInitial { defaultTables with ip := 50 :: initialPerm.tail } = false := by decide

/-- R43 (7): FP is a bijection with an inverse, but "it is not FP" (spec/90_conflicts.md C6); so exchanging
the two meets (1) to (6) and not (7). -/
theorem test_wf_fixture_not_met_refused :
    Tables.finalInvertsInitial { defaultTables with ip := finalPerm, fp := initialPerm } = true ∧
    Tables.meetsFixture { defaultTables with ip := finalPerm, fp := initialPerm } = false ∧
    Tables.admissible { defaultTables with ip := finalPerm, fp := initialPerm } = false := by
  decide +kernel

/-! ## Decoding: words written out from the encodings of R71, R81 and R84 -/

/-- `kkkkbbbbm` with k = 7, b = 8, m = 0. -/
theorem test_decode_enc_word : decode (.cmd 0b011110000#9) = .ok (.enc 8#4 7#4) := by decide
/-- `kkkkbbbbm` with k = 9, b = 4, m = 1. -/
theorem test_decode_dec_word : decode (.cmd 0b100101001#9) = .ok (.dec 4#4 9#4) := by decide
/-- `0100rrrr` with r = 15. -/
theorem test_decode_roundE_word : decode (.seq 0b01001111#8) = .ok (.roundE 15#5) := by decide
/-- `0110rrrr` with r = 0. -/
theorem test_decode_roundD_word : decode (.seq 0b01100000#8) = .ok (.roundD 0#5) := by decide
/-- `01m10000` with m = 0. -/
theorem test_decode_finish_word : decode (.seq 0b01010000#8) = .ok (.finish .encrypt) := by decide
theorem test_decode_reset_word : decode (.pin 1#1) = .ok .reset := by decide

/-- R84 (b): BUSY with `RC` 17. -/
theorem test_decode_rc_17_refused : decode (.seq 0b01010001#8) = .error .roundCounterOutOfRange := by decide
/-- R81: DONE with `RC` 16. -/
theorem test_decode_done_refused : decode (.seq 0b10010000#8) = .error .noSequencerStep := by decide
theorem test_decode_pin_low_refused : decode (.pin 0#1) = .error .resetNotAsserted := by decide
theorem test_decode_bytes_of_no_format_refused :
    decodeBytes [0x10#8, 0x02#8] = .error .notAControlWord := by decide

/-- The opcode table's own bits, `FINISH` with m = 1. -/
theorem test_table_word_finish : decodeTableWord 8 0x70 = some (.finish .decrypt) := by decide
theorem test_table_word_dec : decodeTableWord 9 0x111 = some (.dec 8#4 8#4) := by decide

/-! ## One step of each operation -/

/-- R151: the example's registers after `ENC`. -/
theorem test_enc_loads :
    (nextState (step (withPorts State.reset false true 0x110#9 exampleBlock exampleKey))).map
      (fun t => (t.l, t.r, t.cd, t.rc, t.phase)) =
    some (some 0xCC00CCFF#32, some 0xF0AAF0AA#32, some 0xF0CCAAF556678F#56, 0#5, .busy) := by decide +kernel

/-- R153: the refused example, `CMD = 0x108`; an earlier result is gone. -/
theorem test_enc_refused :
    (nextState (step (withPorts done false true 0x108#9 exampleBlock exampleKey))).map
      (fun t => (t.phase, t.errcode, t.errexp, t.erract, t.result)) =
    some (.error, .sizeMismatch, some 8#4, some 4#4, none) := by decide +kernel

/-- R152: the example's registers after `DEC`, from ERROR. -/
theorem test_dec_loads :
    (nextState (step (withPorts failed false true 0x111#9 0x85E813540F0AB405#64 exampleKey))).map
      (fun t => (t.l, t.r, t.cd, t.mode, t.errcode)) =
    some (some 0x0A4CD995#32, some 0x43423234#32, some 0xF0CCAAF556678F#56, some .decrypt, .none) := by
  decide +kernel

/-- 95_test_vectors.md section 9, `CMD = 0x12E` with the mode bit set: the block is reported. -/
theorem test_dec_refused_reports_block :
    (nextState (step (withPorts State.reset false true 0x12F#9 exampleBlock exampleKey))).map
      (fun t => (t.phase, t.erract)) = some (.error, some 7#4) := by decide +kernel

/-- R154: round 0. -/
theorem test_roundE_round_0 :
    (nextState (step (busy .encrypt 0#5 0xCC00CCFF#32 0xF0AAF0AA#32 0xF0CCAAF556678F#56))).map
      (fun t => (t.l, t.r, t.cd, t.rc)) =
    some (some 0xF0AAF0AA#32, some 0xEF4A6544#32, some 0xE19955FAACCF1E#56, 1#5) := by decide +kernel

/-- 95_test_vectors.md section 5, step 16: the rotation by one of round 15. -/
theorem test_roundE_round_15 :
    (nextState (step (busy .encrypt 15#5 0xC28C960D#32 0x43423234#32 0xF866557AAB33C7#56))).map
      (fun t => (t.l, t.r, t.cd, t.rc)) =
    some (some 0x43423234#32, some 0x0A4CD995#32, some 0xF0CCAAF556678F#56, 16#5) := by decide +kernel

/-- R155: round 0. -/
theorem test_roundD_round_0 :
    (nextState (step (busy .decrypt 0#5 0x0A4CD995#32 0x43423234#32 0xF0CCAAF556678F#56))).map
      (fun t => (t.l, t.r, t.cd, t.rc)) =
    some (some 0x43423234#32, some 0xC28C960D#32, some 0xF866557AAB33C7#56, 1#5) := by decide +kernel

/-- 95_test_vectors.md section 6, step 8: the rotation by one of round 7. -/
theorem test_roundD_round_7 :
    (nextState (step (busy .decrypt 7#5 0x247CC67A#32 0xD5694B90#32 0x557F8663C7AAB3#56))).map
      (fun t => (t.l, t.r, t.cd, t.rc)) =
    some (some 0xD5694B90#32, some 0x064ABA10#32, some 0x2ABFC339E3D559#56, 8#5) := by decide +kernel

/-- R157: the example. -/
theorem test_finish_encrypt :
    (nextState (step (busy .encrypt 16#5 0x43423234#32 0x0A4CD995#32 0xF0CCAAF556678F#56))).map
      (fun t => (t.result, t.l, t.cd, t.rc, t.phase)) =
    some (some 0x85E813540F0AB405#64, none, none, 16#5, .done) := by decide +kernel

/-- 95_test_vectors.md section 6, step 17. -/
theorem test_finish_decrypt :
    (nextState (step (busy .decrypt 16#5 0xF0AAF0AA#32 0xCC00CCFF#32 0xF0CCAAF556678F#56))).map
      (fun t => (t.result, t.mode)) = some (some exampleBlock, some .decrypt) := by decide +kernel

/-- R210: reset overrides a presented command. -/
theorem test_reset_overrides_command :
    step (withPorts done true true 0x110#9 exampleBlock exampleKey) =
      .next (withPorts State.reset false false 0x110#9 exampleBlock exampleKey) := rfl

/-- R219: reset cancels a transaction. -/
theorem test_reset_cancels :
    (nextState (exec .reset (busy .decrypt 5#5 0x9DFD7821#32 0x3F4C1ED3#32 0xFFFF10022ED4F1#56))).map
      State.registers = some State.reset := by decide

/-- R214: a command in BUSY. -/
theorem test_command_in_busy_refused :
    step (withPorts (busy .encrypt 3#5 0#32 0#32 0#56) false true 0x110#9 0#64 0#64) =
      .refused .commandInBusy := rfl

/-- R84 (b): stuck. -/
theorem test_rc_17_stuck : step (busy .encrypt 17#5 0#32 0#32 0#56) = .fault .noMicroOperation := rfl

/-! ## Units: the fixtures of 95_test_vectors.md -/

/-- Section 1.1. -/
theorem test_permute_fixture :
    permuteBytes (List.replicate 8 170#8) initialPerm = .result [0, 0, 0, 0, 255, 255, 255, 255] := by decide
theorem test_permute_fixture_again :
    permuteBytes [0, 0, 0, 0, 255, 255, 255, 255] initialPerm = .result (List.replicate 8 240#8) := by decide
/-- Section 1.2. -/
theorem test_rotate_left_fixture :
    rol1Bytes [103, 71, 28, 41, 22, 189, 88] = .result [206, 142, 56, 66, 45, 122, 177] := by decide
theorem test_rotate_right_fixture :
    ror1Bytes [103, 71, 28, 57, 22, 189, 88] = .result [179, 163, 142, 20, 139, 94, 172] := by decide
/-- Section 2. -/
theorem test_getbit_second_byte : getBit [0, 128] 8 = .result 1#1 := by decide
theorem test_getbit_last_bit : getBit [1, 0] 7 = .result 1#1 := by decide
theorem test_setbit : setBit [0, 0] 9 = .result [0, 64] := by decide
theorem test_clrbit : clrBit [255] 7 = .result [254] := by decide
theorem test_xor : xorBytes [170, 15] [255, 15] = .result [85, 0] := by decide
theorem test_xor_lengths : xorBytes [1, 2, 3, 4, 5, 6] [1, 2, 3, 4, 5] = .error (.lengthMismatch 6 5) := by
  decide
theorem test_permute_reversal : permuteBytes [1] [8, 7, 6, 5, 4, 3, 2, 1] = .result [128] := by decide
theorem test_permute_range_error :
    permuteBytes [18, 52] [17, 1, 2, 3, 4, 5, 6, 7] = .error (.rangeError 17 16) := by decide
theorem test_permute_partial_refused :
    permuteBytes [255] [1, 2, 3, 4, 5, 6, 7, 8, 1, 2, 3, 4] = .refused .partialByteTable := by decide
theorem test_permute_zero_refused :
    permuteBytes [255] [0, 1, 2, 3, 4, 5, 6, 7] = .refused .entryZero := by decide
/-- Section 3. -/
theorem test_kinit : kinit tables exampleKey = 0xF0CCAAF556678F#56 := by decide +kernel
theorem test_subkey : subkey tables 0xE19955FAACCF1E#56 = 0x1B02EFFC7072#48 := by decide
theorem test_rotr_two : rotR 0xF0CCAAF556678F#56 2 = 0xFC332ABD5599E3#56 := by decide
theorem test_generic_rotate_length : rol1Bytes [1, 2, 3, 4, 5, 6] = .error (.lengthError 6) := by decide
/-- Section 8. -/
theorem test_expand : expand tables 0x12345678#32 = 0x0A41A82AC3F0#48 := by decide
theorem test_subst_first_bit_is_msb : subst tables 0x800000000000#48 = 0x4FA72C4D#32 := by decide
theorem test_subst_last_bit_is_lsb : subst tables 0x040000000000#48 = 0x0FA72C4D#32 := by decide
theorem test_pbox : pbox tables 0x12345678#32 = 0x6E34140E#32 := by decide
theorem test_round_function : roundF tables 0xEF4A6544#32 0x79AED9DBC9E5#48 = 0x3CAB87A3#32 := by decide +kernel
/-- Section 9, `CIPHER` on short sequences. -/
theorem test_cipher_bytes_size_mismatch :
    cipherBytes tables [1, 2, 3, 4, 5, 6, 7, 8] [1, 2, 3, 4, 5, 6, 7] .decrypt =
      .error (.sizeMismatch 8 7) := by decide

/-! ## Host scripts -/

/-- R86: what the example line drives. -/
theorem test_script_line_ports :
    (parseLine "ENC \"abcdefgh\", \"keyisokk\" ; comment".toList) =
      .line (.enc [97, 98, 99, 100, 101, 102, 103, 104] [107, 101, 121, 105, 115, 111, 107, 107]) ∧
    assembleLine (.enc [97, 98, 99, 100, 101, 102, 103, 104] [107, 101, 121, 105, 115, 111, 107, 107]) =
      some [.drive ⟨false, true, 0x110#9, 0x6162636465666768#64, 0x6B657969736F6B6B#64⟩] := by decide

/-- 95_test_vectors.md section 10, program 2: a short block is left-justified. -/
theorem test_script_short_block :
    assembleLine (.enc [0x01, 0x23, 0x45, 0x67] [0x13, 0x34, 0x57, 0x79, 0x9B, 0xBC, 0xDF, 0xF1]) =
      some [.drive ⟨false, true, 0x108#9, 0x0123456700000000#64, exampleKey⟩] := by decide

/-- R86: a micro-operation cannot be written in a script. -/
theorem test_script_micro_operation_malformed : parseScript "WAIT\nFINISH\n" = none := by decide

/-! ## Witnesses: values that meet the hypotheses of the obligations, clause by clause

Each theorem is named after its obligation. -/

/-- IDLE, BUSY in the three kinds of step, DONE and ERROR, each with the invariant. -/
theorem test_inv_reset : State.reset.Inv := ⟨by decide, by decide, by decide, by decide⟩
theorem test_inv_busy_first : (busy .encrypt 0#5 1#32 2#32 3#56).Inv :=
  ⟨by decide, by decide, by decide, by decide⟩
theorem test_inv_busy_last : (busy .decrypt 16#5 1#32 2#32 3#56).Inv :=
  ⟨by decide, by decide, by decide, by decide⟩
theorem test_inv_done : done.Inv := ⟨by decide, by decide, by decide, by decide⟩
theorem test_inv_failed : failed.Inv := ⟨by decide, by decide, by decide, by decide⟩

theorem test_witness_ResetStateIsTheTableOfResetValues :
    ({ rst := false, start := false, cmd := 0x110#9, blockIn := 5#64, keyIn := 6#64 } : Ports).rst = false ∧
    ({ rst := false, start := false, cmd := 0x110#9, blockIn := 5#64, keyIn := 6#64 } : Ports).start = false := by
  decide

theorem test_witness_ResetWritesEveryRegisterAndOverrides :
    State.reset.phase = .idle ∧ (withPorts done true true 0x110#9 5#64 6#64).ports.rst = true := by decide

/-- Both lengths right; the block's wrong by one; only the key's wrong; both wrong; BUSY. -/
theorem test_witness_CommandStepChecksThenLoads :
    (failed.phase ≠ .busy ∧ (8#4 : LenField) = 8#4) ∧
    (State.reset.phase ≠ .busy ∧ ¬((7#4 : LenField) = 8#4 ∧ (8#4 : LenField) = 8#4)) ∧
    (done.phase ≠ .busy ∧ ¬((8#4 : LenField) = 8#4 ∧ (9#4 : LenField) = 8#4)) ∧
    (busy .encrypt 0#5 1#32 2#32 3#56).phase = .busy := by decide

theorem test_witness_RefusedCommandEntersError :
    done.phase ≠ .busy ∧ ¬((0#4 : LenField) = 8#4 ∧ (15#4 : LenField) = 8#4) ∧
      done.ports.rst = false ∧ done.ports.start = false := by decide

theorem test_witness_CommandInBusyIsNotTaken :
    (withPorts (busy .decrypt 16#5 1#32 2#32 3#56) false true 0x111#9 5#64 6#64).phase = .busy ∧
    (withPorts (busy .decrypt 16#5 1#32 2#32 3#56) false true 0x111#9 5#64 6#64).ports.start = true ∧
    (withPorts (busy .decrypt 16#5 1#32 2#32 3#56) false true 0x111#9 5#64 6#64).ports.rst = false := by
  decide

theorem test_witness_CommandWordFieldsAndTheTwoAcceptedWords :
    done.phase ≠ .busy ∧ decode (.cmd 0x111#9) = .ok (.dec 8#4 8#4) ∧
      decode (.cmd 0x112#9) = .ok (.enc 9#4 8#4) := by decide

theorem test_witness_ErrorIsLeftByCommandOrReset :
    failed.phase = .error ∧ failed.ports.rst = false ∧ failed.ports.start = false ∧
      ¬((8#4 : LenField) = 8#4 ∧ (0#4 : LenField) = 8#4) := by decide

/-- Rounds 0 and 15; the last clause with the register that the spec's table of subkeys gives. -/
theorem test_witness_RoundEncryptRotatesThenExtracts :
    (let s := busy .encrypt 15#5 1#32 2#32 0xF866557AAB33C7#56;
      s.phase = .busy ∧ s.mode = some .encrypt ∧ s.rc.toNat < 16 ∧ s.rc = 15#5 ∧ s.l = some 1#32 ∧
        s.r = some 2#32 ∧ s.cd = some 0xF866557AAB33C7#56) ∧
    (busy .encrypt 0#5 1#32 2#32 3#56).rc.toNat < 16 ∧
    0xF866557AAB33C7#56 = keyRegAt tables .encrypt 0xF0CCAAF556678F#56 15 := by decide +kernel

theorem test_witness_RoundDecryptExtractsThenRotates :
    (let s := busy .decrypt 15#5 1#32 2#32 0xE19955FAACCF1E#56;
      s.phase = .busy ∧ s.mode = some .decrypt ∧ s.rc.toNat < 16 ∧ s.rc = 15#5 ∧ s.l = some 1#32 ∧
        s.r = some 2#32 ∧ s.cd = some 0xE19955FAACCF1E#56) ∧
    (busy .decrypt 0#5 1#32 2#32 3#56).rc.toNat < 16 ∧
    0xE19955FAACCF1E#56 = keyRegAt tables .decrypt 0xF0CCAAF556678F#56 15 := by decide +kernel

/-- The halves before and after encrypt round 15 of 95_test_vectors.md section 5. -/
theorem test_witness_FinishSwapsAndPermutes :
    (let s := busy .encrypt 16#5 0x43423234#32 0x0A4CD995#32 3#56;
      s.phase = .busy ∧ s.rc = 16#5 ∧ s.l = some 0x43423234#32 ∧ s.r = some 0x0A4CD995#32) ∧
    0x0A4CD995#32 = 0xC28C960D#32 ^^^ roundF tables 0x43423234#32 0xCB3D8B0E17F5#48 := by decide +kernel

/-- Outside BUSY; the wrong mode; another count; the count at its bound. -/
theorem test_witness_UnselectedMicroOperationIsRefused :
    ¬(done.phase = .busy ∧ done.rc = 16#5) ∧
    ¬((busy .decrypt 3#5 1#32 2#32 3#56).mode = some .encrypt) ∧
    ¬((busy .encrypt 3#5 1#32 2#32 3#56).rc = 4#5) ∧
    ¬((busy .encrypt 16#5 1#32 2#32 3#56).rc.toNat < 16) ∧
    ¬((busy .encrypt 15#5 1#32 2#32 3#56).rc = 16#5) := by decide

theorem test_witness_ReadingNoValueStops :
    (let s : State := { busy .encrypt 15#5 1#32 2#32 3#56 with l := none };
      s.phase = .busy ∧ s.mode = some .encrypt ∧ s.rc.toNat < 16 ∧ s.l = none) ∧
    (let s : State := { busy .decrypt 0#5 1#32 2#32 3#56 with r := none };
      s.l.isSome = true ∧ s.r = none) ∧
    (let s : State := { busy .decrypt 0#5 1#32 2#32 3#56 with cd := none };
      s.l.isSome = true ∧ s.r.isSome = true ∧ s.cd = none) ∧
    (let s : State := { busy .encrypt 16#5 1#32 2#32 3#56 with r := none };
      s.rc = 16#5 ∧ s.l.isSome = true ∧ s.r = none) ∧
    (let s : State := { busy .encrypt 0#5 1#32 2#32 3#56 with mode := none };
      s.phase = .busy ∧ s.mode = none ∧ s.ports.rst = false ∧ s.ports.start = false) := by decide

/-- Each kind of operation answers a next state somewhere; the refused command goes to ERROR. -/
theorem test_witness_OperationFrames :
    (nextState (exec (.roundE 0#5) (busy .encrypt 0#5 1#32 2#32 3#56))).isSome = true ∧
    (nextState (exec (.roundD 15#5) (busy .decrypt 15#5 1#32 2#32 3#56))).isSome = true ∧
    (nextState (exec (.finish .decrypt) (busy .encrypt 16#5 1#32 2#32 3#56))).isSome = true ∧
    (nextState (exec (.enc 4#4 8#4) done)).map State.phase = some .error ∧
    (nextState (exec (.dec 8#4 0#4) done)).map State.phase = some .error := by decide +kernel

theorem test_witness_SequencerWordSelectsByPhaseModeRc :
    (busy .decrypt 15#5 1#32 2#32 3#56).mode = some .decrypt ∧ done.mode = some .encrypt := by decide

/-- The counts where the clauses meet: 15, 16, 17. -/
theorem test_witness_SequencerStepsByRc :
    (let s := busy .encrypt 15#5 1#32 2#32 3#56;
      s.ports.rst = false ∧ s.ports.start = false ∧ s.phase = .busy ∧ s.mode = some .encrypt ∧
        s.rc.toNat < 16) ∧
    (busy .decrypt 15#5 1#32 2#32 3#56).rc.toNat < 16 ∧
    (busy .decrypt 16#5 1#32 2#32 3#56).rc.toNat = 16 ∧ 16 < (busy .encrypt 17#5 1#32 2#32 3#56).rc.toNat := by decide

/-- Each of the four kinds of step, and a word of each format that decodes. -/
theorem test_witness_StepRunsTheDecodedWord :
    (withPorts done true true 0#9 5#64 6#64).ports.rst = true ∧
    ((withPorts done false true 0x1FF#9 5#64 6#64).ports.rst = false ∧
      (withPorts done false true 0x1FF#9 5#64 6#64).ports.start = true) ∧
    (busy .decrypt 2#5 1#32 2#32 3#56).seqWord = some 0x62#8 ∧
    (failed.ports.rst = false ∧ failed.ports.start = false ∧ failed.phase ≠ .busy) ∧
    ((withPorts done false true 0x1FF#9 5#64 6#64).fetch = .ok (some (.cmd 0x1FF#9)) ∧
      decode (.cmd 0x1FF#9) = .ok (.dec 15#4 15#4)) ∧
    (busy .decrypt 2#5 1#32 2#32 3#56).fetch = .ok (some (.seq 0x62#8)) := by decide

theorem test_witness_NothingSelectedChangesNoRegister :
    done.ports.rst = false ∧ done.ports.start = false ∧ done.phase ≠ .busy := by decide

theorem test_witness_DecodeOfEncodeIsTheInstruction :
    (Instr.roundD 15#5).wellFormed = true ∧ (Instr.enc 15#4 0#4).wellFormed = true ∧
      (Instr.finish .decrypt).wellFormed = true := by decide

theorem test_witness_EncodeOfDecodeIsTheWord :
    decode (.cmd 0x1FE#9) = .ok (.enc 15#4 15#4) ∧ decode (.seq 0x6F#8) = .ok (.roundD 15#5) ∧
      decode (.pin 1#1) = .ok .reset := by decide

theorem test_witness_PlacedTableWordRunsNext :
    decodeTableWord 9 0x110 = some (.enc 8#4 8#4) ∧ decodeTableWord 8 0x6F = some (.roundD 15#5) ∧
      decodeTableWord 8 0x50 = some (.finish .encrypt) ∧ decodeTableWord 1 1 = some .reset := by decide

/-- From a state with the invariant in each phase (above) a step is answered. -/
theorem test_witness_EveryStepKeepsTheInvariant :
    (nextState (step (busy .encrypt 0#5 1#32 2#32 3#56))).isSome = true ∧
    (nextState (step (busy .decrypt 16#5 1#32 2#32 3#56))).isSome = true ∧
    (nextState (step (withPorts failed false true 0x111#9 5#64 6#64))).isSome = true ∧
    (nextState (step done)).isSome = true := by decide +kernel

/-- BUSY without a command; a command with reset; a command outside BUSY. -/
theorem test_witness_NoStopWhileTheHostWaits :
    (busy .decrypt 16#5 1#32 2#32 3#56).HostWaits ∧
    (withPorts (busy .decrypt 16#5 1#32 2#32 3#56) true true 0#9 5#64 6#64).HostWaits ∧
    (withPorts done false true 0#9 5#64 6#64).HostWaits := by decide

/-- Each of the four changes. -/
theorem test_witness_PhaseChangesOnlyAsListed :
    (nextState (step (withPorts done true false 0#9 5#64 6#64))).map State.phase = some .idle ∧
    (nextState (step (withPorts failed false true 0x111#9 5#64 6#64))).map State.phase = some .busy ∧
    (nextState (step (withPorts done false true 0x0F0#9 5#64 6#64))).map State.phase = some .error ∧
    (nextState (step (busy .decrypt 16#5 1#32 2#32 3#56))).map State.phase = some .done := by
  decide +kernel

theorem test_witness_ModeFixedAndRcCounts :
    (nextState (step (busy .encrypt 15#5 1#32 2#32 3#56))).map State.rc = some 16#5 ∧
    (nextState (step (busy .encrypt 16#5 1#32 2#32 3#56))).map State.rc = some 16#5 ∧
    (nextState (step (withPorts done false true 0#9 5#64 6#64))).map State.rc = some 0#5 ∧
    (nextState (step done)).map State.rc = some 16#5 := by decide +kernel

/-- `RESULT` goes by a command and by reset, and comes by `FINISH`. -/
theorem test_witness_NothingIsLeftOver :
    (nextState (step (withPorts done true false 0#9 5#64 6#64))).map State.result = some none ∧
    (nextState (step (withPorts done false true 0x110#9 5#64 6#64))).map State.result = some none ∧
    ((nextState (step (busy .encrypt 16#5 1#32 2#32 3#56))).bind State.result).isSome = true := by
  decide +kernel

theorem test_witness_OutputsCarryValuesOnlyWhenValid :
    done.phase = .done ∧ done.outputs.result.isSome = true ∧ failed.phase = .error ∧
      failed.outputs.erract.isSome = true ∧ failed.ports.rst = false ∧ failed.ports.start = false := by
  decide

theorem test_witness_CommandOutcomeDependsOnOperandsOnly :
    (withPorts done false true 0x110#9 5#64 6#64).phase ≠ .busy ∧
    (withPorts failed false true 0x110#9 5#64 6#64).phase ≠ .busy ∧
    (withPorts done false true 0x110#9 5#64 6#64).ports =
      (withPorts failed false true 0x110#9 5#64 6#64).ports ∧
    (withPorts done false true 0x110#9 5#64 6#64).ports.rst = false ∧
    (withPorts done false true 0x110#9 5#64 6#64).ports.start = true := by decide

/-- Each of the three outcomes, with `start` low; and reset with `start` high. -/
theorem test_witness_InputsAreSampledInTheCommandStepOnly :
    (busy .encrypt 0#5 1#32 2#32 3#56).ports.start = false ∧
    (nextState (step (busy .encrypt 0#5 1#32 2#32 3#56))).isSome = true ∧
    (withPorts done true true 0#9 5#64 6#64).ports.rst = true ∧
    (nextState (step (busy .encrypt 17#5 1#32 2#32 3#56))).isSome = false := by decide +kernel

/-- A host that waits: with nothing planned, and with `WAIT` before its next command. -/
theorem test_witness_RoundsFollowTheCipherFunction :
    (let s := withPorts State.reset false true 0x110#9 exampleBlock exampleKey;
      s.phase ≠ .busy ∧ s.ports.rst = false ∧ s.ports.start = true ∧
        s.ports.cmd = commandWord .encrypt 8#4 8#4 ∧ waitsForResult s.host) ∧
    waitsForResult [.wait, .drive Ports.resetPulse] := by decide

theorem test_witness_TransactionEndsWithCipher :
    (let s := withPorts failed false true 0x111#9 exampleBlock exampleKey;
      s.phase ≠ .busy ∧ s.ports.rst = false ∧ s.ports.start = true ∧
        s.ports.cmd = commandWord .decrypt 8#4 8#4 ∧ waitsForResult s.host) ∧
    (let s := withPorts done false true 0x12F#9 exampleBlock exampleKey;
      s.phase ≠ .busy ∧ s.ports.rst = false ∧ s.ports.start = true ∧
        s.ports.cmd = commandWord .decrypt 7#4 9#4 ∧ waitsForResult s.host) := by decide

theorem test_witness_DecryptInvertsEncrypt :
    tables.lengthsOk = true ∧ tables.rangesOk = true ∧ tables.finalInvertsInitial = true := by decide +kernel

theorem test_witness_MachineRoundTrip :
    (tables.lengthsOk = true ∧ tables.rangesOk = true ∧ tables.finalInvertsInitial = true) ∧
    Mode.encrypt ≠ Mode.decrypt ∧
    (let s := withPorts State.reset false true 0x110#9 exampleBlock exampleKey;
      s.phase ≠ .busy ∧ s.ports.rst = false ∧ s.ports.start = true ∧
        s.ports.cmd = commandWord .encrypt 8#4 8#4 ∧ waitsForResult s.host) ∧
    ∀ c, (let s := withPorts done false true 0x111#9 c exampleKey;
      s.phase ≠ .busy ∧ s.ports.rst = false ∧ s.ports.start = true ∧
        s.ports.cmd = commandWord .decrypt 8#4 8#4 ∧ waitsForResult s.host ∧ s.ports.blockIn = c ∧
        s.ports.keyIn = exampleKey) :=
  ⟨by decide +kernel, by decide, by decide, fun _ => by simp [withPorts, done, State.reset, commandWord, Mode.bit, waitsForResult]⟩

theorem test_witness_CipherOnByteSequences :
    (List.replicate 7 (1#8)).length ≠ 8 ∧ (List.replicate 9 (1#8)).length ≠ 8 ∧
      (List.replicate 8 (1#8)).length = 8 := by decide

/-- Operands of eight bytes, and the longest that a line can hold. -/
theorem test_witness_RunEndsInDoneOrError :
    failed.phase ≠ .busy ∧
    (HostLine.runE (List.replicate 8 1#8) (List.replicate 8 2#8)).wellFormed = true ∧
    (HostLine.runD (List.replicate 15 1#8) []).wellFormed = true := by decide

theorem test_witness_CommandLineDrivesThePorts :
    (List.replicate 15 (1#8)).length ≤ 15 ∧ 15 < (List.replicate 16 (1#8)).length := by decide

/-- A half that is all ones and a half that is all zero. -/
theorem test_witness_RotateLeftByOne :
    cHalf 0xFFFFFFF0000000#56 = BitVec.allOnes 28 ∧ dHalf 0xFFFFFFF0000000#56 = 0#28 := by decide

theorem test_witness_RotateRightByOne :
    cHalf 0x0000000FFFFFFF#56 = 0#28 ∧ dHalf 0x0000000FFFFFFF#56 = BitVec.allOnes 28 := by decide

theorem test_witness_RotateByOneOrTwo : (2 = 1 ∨ 2 = 2) ∧ 27 < 28 := by decide

theorem test_witness_GenericRotateChecksLength :
    (List.replicate 6 (1#8)).length ≠ 7 ∧ (List.replicate 8 (1#8)).length ≠ 7 ∧
      (List.replicate 7 (1#8)).length = 7 := by decide

theorem test_witness_SubkeysInClosedForm : 0 < 16 ∧ 15 < 16 := by decide

theorem test_witness_DecryptSubkeysMirrorEncryptSubkeys : 0 < 16 ∧ 15 < 16 := by decide

/-- The pair of keys of 95_test_vectors.md section 1.6. -/
theorem test_witness_DroppedKeyBitsInfluenceNothing :
    (∀ q ∈ tables.pc1, exampleKey.getMsbD (q - 1) = (0x123456789ABCDEF0#64).getMsbD (q - 1)) ∧
    (∀ i, i < 64 → i % 8 ≠ 7 → exampleKey.getMsbD i = (0x123456789ABCDEF0#64).getMsbD i) ∧
    exampleKey ≠ 0x123456789ABCDEF0#64 := by decide

/-- The first and the last output bit. -/
theorem test_witness_PermuteWiresEachOutputBit :
    initialPerm.length = 64 ∧ initialPerm[0]? = some 58 ∧ initialPerm[63]? = some 7 := by decide

theorem test_witness_SixNetworksAreWiring :
    tables.lengthsOk = true ∧ tables.rangesOk = true ∧ 63 < 64 := by decide +kernel

/-- A zero entry; an entry one past the end; a table of nine entries; eight entries, one at the end. -/
theorem test_witness_BytePermuteChecksThenPermutes :
    0 ∈ [0, 17] ∧
    (0 ∉ [1, 17] ∧ ∃ q ∈ [1, 17], 8 * [1#8, 2#8].length < q) ∧
    ((∀ q ∈ List.replicate 9 16, 1 ≤ q ∧ q ≤ 8 * [1#8, 2#8].length) ∧ (List.replicate 9 16).length % 8 ≠ 0) ∧
    ((∀ q ∈ List.replicate 8 16, 1 ≤ q ∧ q ≤ 8 * [1#8, 2#8].length) ∧
      (List.replicate 8 16).length % 8 = 0) := by decide

theorem test_witness_XorChecksLengths :
    [1#8].length ≠ ([] : List Byte).length ∧ [1#8].length = [2#8].length ∧ 7 < 8 * [1#8].length := by decide

/-- The last bit and the first past the end. -/
theorem test_witness_BitUtilitiesAddressOneBit :
    15 < 8 * [1#8, 2#8].length ∧ 8 * [1#8, 2#8].length ≤ 16 := by decide

theorem test_witness_SubstLooksUpEightLanes : 0 < 8 ∧ 7 < 8 := by decide

theorem test_witness_RomReadIsTheFlatRead :
    tables.sboxOk = true ∧ 7 < 8 ∧ 63 < 64 := by decide

/-- 42_round_function.md R136: a half and a subkey exchanged through their exclusive or. -/
theorem test_witness_RoundFunctionIsItsFourSteps :
    permuteNet 48 0xFFFFFFFF#32 tables.e ^^^ 0#48 = permuteNet 48 0#32 tables.e ^^^ 0xFFFFFFFFFFFF#48 := by
  decide +kernel

theorem test_witness_PortCarriesBytesFirstByteHighest : (List.replicate 8 (1#8)).length = 8 ∧ 63 < 64 := by
  decide

end Sys2Proof.Tests
end

/-! # Stops on a register without a value (spec/00_scope.md R17, R18) -/

namespace Sys2Proof.Machine

section Operands

variable {s : State} {T : Tables} {m : Mode} {f : Fault}

/-! ## Reading the operand registers -/

section Halves

variable {k : Half → Half → Host.Outcome State Fault Refusal}

/-- `L` is read first: without it nothing else matters. -/
theorem withHalves_l_none (hl : s.l = none) : withHalves s k = .fault (.noValue .l) := by
  simp only [withHalves, hl]

theorem withHalves_r_none (hl : s.l.isSome) (hr : s.r = none) :
    withHalves s k = .fault (.noValue .r) := by
  obtain ⟨l, hl⟩ := Option.isSome_iff_exists.mp hl
  simp only [withHalves, hl, hr]

/-- With both halves there, a continuation that faults whatever they hold faults. -/
theorem withHalves_fault (hl : s.l.isSome) (hr : s.r.isSome) (hk : ∀ l r, k l r = .fault f) :
    withHalves s k = .fault f := by
  obtain ⟨l, hl⟩ := Option.isSome_iff_exists.mp hl
  obtain ⟨r, hr⟩ := Option.isSome_iff_exists.mp hr
  simp only [withHalves, hl, hr, hk]

end Halves

theorem withKeyReg_none {k : KeyReg → Host.Outcome State Fault Refusal} (hcd : s.cd = none) :
    withKeyReg s k = .fault (.noValue .cd) := by
  simp only [withKeyReg, hcd]

/-! ## The selected micro-operations read their operands -/

/-- R154, R155: a selected round is its operand reads and then the Feistel update. -/
theorem roundStep_selected (hp : s.phase = .busy) (hm : s.mode = some m) (hrc : s.rc.toNat < 16) :
    roundStep T m s.rc s =
      withHalves s fun l r => withKeyReg s fun cd =>
        .next (s.feistelUpdate T l r (kstep T m s.rc.toNat cd)) :=
  if_pos ⟨hp, hm, rfl, hrc⟩

/-- R157: a selected `FINISH` is its operand reads and then its writes. -/
theorem finishStep_selected (hp : s.phase = .busy) (hrc : s.rc.toNat = 16) :
    finishStep T s = withHalves s fun l r => .next (s.finishWith T l r) :=
  if_pos ⟨hp, hrc⟩

theorem exec_roundE (rc : BitVec 5) (s : State) :
    exec (.roundE rc) s = roundStep tables .encrypt rc s := rfl

theorem exec_roundD (rc : BitVec 5) (s : State) :
    exec (.roundD rc) s = roundStep tables .decrypt rc s := rfl

theorem exec_finish (m : Mode) (s : State) : exec (.finish m) s = finishStep tables s := rfl

/-! ## The sequencer's word without a mode (log entry 5) -/

theorem State.seqWord_mode_none (hm : s.mode = none) : s.seqWord = none := by
  simp only [State.seqWord, hm, Option.map_none]

theorem State.fetch_mode_none (hr : s.ports.rst = false) (hs : s.ports.start = false)
    (hp : s.phase = .busy) (hm : s.mode = none) : s.fetch = .error (.noValue .mode) := by
  simp [State.fetch, hr, hs, hp, State.seqWord_mode_none hm]

/-- A step whose fetch fails is that fault. -/
theorem step_of_fetch_error (h : s.fetch = .error f) : step s = .fault f := by
  simp only [step, stepBy, h]

end Operands

/-- Settles O12: a selected operation reads `L`, then `R`, then `CD` and stops at the first that holds no
value; without `MODE` there is no word to select one. -/
theorem readingNoValueStops : Obligations.ReadingNoValueStops := by
  unfold Obligations.ReadingNoValueStops
  intro s m i hp
  refine ⟨?round, ?finish, ?mode⟩
  case round =>
    intro hm hrc hi
    have hexec : exec i s = roundStep tables m s.rc s := by
      rw [hi]
      cases m with
      | encrypt => exact exec_roundE s.rc s
      | decrypt => exact exec_roundD s.rc s
    rw [hexec, roundStep_selected hp hm hrc]
    exact ⟨withHalves_l_none, withHalves_r_none, fun hl hr hcd =>
      withHalves_fault hl hr fun _ _ => withKeyReg_none hcd⟩
  case finish =>
    intro hrc
    have hrc : s.rc.toNat = 16 := by simp [hrc]
    rw [exec_finish, finishStep_selected hp hrc]
    exact ⟨withHalves_l_none, withHalves_r_none⟩
  case mode =>
    intro hm hr hs
    exact step_of_fetch_error (State.fetch_mode_none hr hs hp hm)

end Sys2Proof.Machine

/-! # The invariant of the reachable states, and what a step changes (spec/10_state.md R24 to R32) -/

namespace Sys2Proof.Machine

section Invariant

variable {s t u : State} {T : Tables}

/-! ## The invariant, phase by phase -/

/-- The part of the invariant that speaks of phase `p`. -/
def State.InvAt (s : State) : Phase → Prop
  | .idle  => s.InvIdle
  | .busy  => s.InvBusy
  | .done  => s.InvDone
  | .error => s.InvError

/-- The invariant is its part for the phase the machine is in. -/
theorem State.inv_iff : s.Inv ↔ s.InvAt s.phase := by
  cases hp : s.phase <;> simp [State.Inv, State.InvAt, hp]

/-- R32: outside BUSY the datapath holds no value. -/
theorem State.Inv.datapath_none (hi : s.Inv) (hp : s.phase ≠ .busy) :
    s.l = none ∧ s.r = none ∧ s.cd = none := by
  obtain ⟨hidle, -, hdone, herror⟩ := hi
  cases hphase : s.phase with
  | idle =>
    obtain ⟨hl, hr, hcd, -⟩ := hidle hphase
    exact ⟨hl, hr, hcd⟩
  | busy => exact absurd hphase hp
  | done =>
    obtain ⟨hl, hr, hcd, -⟩ := hdone hphase
    exact ⟨hl, hr, hcd⟩
  | error =>
    obtain ⟨hl, hr, hcd, -⟩ := herror hphase
    exact ⟨hl, hr, hcd⟩

/-- R27: outside DONE `RESULT` holds no value. -/
theorem State.Inv.result_none (hi : s.Inv) (hp : s.phase ≠ .done) : s.result = none := by
  obtain ⟨hidle, hbusy, -, herror⟩ := hi
  cases hphase : s.phase with
  | idle =>
    obtain ⟨-, -, -, -, -, hres, -⟩ := hidle hphase
    exact hres
  | busy =>
    obtain ⟨-, -, -, -, -, hres, -⟩ := hbusy hphase
    exact hres
  | done => exact absurd hphase hp
  | error =>
    obtain ⟨-, -, -, -, hres, -⟩ := herror hphase
    exact hres

/-! ## Every operation keeps it -/

/-- R210: reset reaches the invariant from any state. -/
theorem State.resetRegisters_inv : s.resetRegisters.Inv :=
  State.inv_iff.mpr ⟨rfl, rfl, rfl, rfl, rfl, rfl, rfl, rfl, rfl⟩

/-- R186: error entry reaches the invariant from any state. -/
theorem State.raiseSizeMismatch_inv {a : LenField} (ha : a ≠ 8#4) :
    (s.raiseSizeMismatch 8#4 a).Inv :=
  State.inv_iff.mpr ⟨rfl, rfl, rfl, rfl, rfl, rfl, rfl, rfl, by simpa using ha⟩

/-- R153: an accepted command reaches the invariant from any state. -/
theorem State.load_beginCommand_inv {m : Mode} : (s.beginCommand.load T m).Inv :=
  State.inv_iff.mpr ⟨rfl, rfl, rfl, rfl, Nat.zero_le _, rfl, rfl, rfl, rfl⟩

/-- R24: below 16 the round counter counts without wrapping. -/
theorem toNat_rc_succ {rc : BitVec 5} (h : rc.toNat < 16) : (rc + 1#5).toNat = rc.toNat + 1 := by
  bv_omega

/-- R156: a round that is still due leaves `RC` at most 16 and everything else as BUSY wants it. -/
theorem State.feistelUpdate_inv {l r : Half} {st : KeyReg × Subkey} (hi : s.Inv)
    (hp : s.phase = .busy) (hrc : s.rc.toNat < 16) : (s.feistelUpdate T l r st).Inv := by
  obtain ⟨-, hbusy, -, -⟩ := hi
  obtain ⟨-, -, -, hm, -, hrest⟩ := hbusy hp
  have hcount : (s.rc + 1#5).toNat ≤ Config.rounds := by
    rw [toNat_rc_succ hrc]
    exact hrc
  have hinv : (s.feistelUpdate T l r st).InvBusy := ⟨rfl, rfl, rfl, hm, hcount, hrest⟩
  rwa [State.inv_iff, State.feistelUpdate_phase, hp]

/-- R157: `FINISH` turns what BUSY holds into what DONE holds. -/
theorem State.finishWith_inv {l r : Half} (hi : s.Inv) (hp : s.phase = .busy)
    (hrc : s.rc.toNat = 16) : (s.finishWith T l r).Inv := by
  obtain ⟨-, hbusy, -, -⟩ := hi
  obtain ⟨-, -, -, hm, -, -, herr⟩ := hbusy hp
  exact State.inv_iff.mpr ⟨rfl, rfl, rfl, hm, hrc, rfl, herr⟩

/-- The core's part of a step keeps the invariant. -/
theorem StepCase.inv (h : StepCase T s u) (hi : s.Inv) : u.Inv := by
  cases h with
  | reset => exact State.resetRegisters_inv
  | refuse _ _ _ a ha => exact State.raiseSizeMismatch_inv (sizeViolation_ne ha)
  | accept => exact State.load_beginCommand_inv
  | round _ _ hp _ _ hrc => exact State.feistelUpdate_inv hi hp hrc
  | finish _ _ hp hrc => exact State.finishWith_inv hi hp hrc
  | idle => exact hi

/-- The host's part of a step does not touch what the invariant speaks of. -/
theorem State.advanceHost_inv : s.advanceHost.Inv ↔ s.Inv := Iff.rfl

/-! ## The machine's step -/

/-- Everything the machine's own step can do when it answers a next state. -/
theorem step_next (h : step s = .next t) : ∃ u, StepCase tables s u ∧ t = u.advanceHost :=
  stepWith_next (step_eq_stepWith s ▸ h)

theorem step_inv (hi : s.Inv) (h : step s = .next t) : t.Inv := by
  obtain ⟨u, hu, rfl⟩ := step_next h
  exact State.advanceHost_inv.mpr (hu.inv hi)

/-- R158, log entry 6: with both strobes low outside BUSY only the host moves on. -/
theorem step_of_nothing_selected (hr : s.ports.rst = false) (hs : s.ports.start = false)
    (hp : s.phase ≠ .busy) : step s = .next s.advanceHost := by
  have hfetch : s.fetch = .ok none := by simp [State.fetch, hr, hs, hp]
  simp only [step, stepBy, hfetch]

/-! ## Reading the step's conditions -/

/-- R71: the size check of a command word passes exactly when its two length fields, bits 8 to 1, are 8
and 8. -/
theorem sizeViolation_cmd_eq_none {w : BitVec 9} :
    sizeViolation (w.extractLsb' 1 4) (w.extractLsb' 5 4) = none ↔ w.extractLsb' 1 8 = 0x88#8 := by
  rw [sizeViolation_eq_none]
  revert w
  decide

/-- R24: `RC = 16` as a number and as a word. -/
theorem rc_eq_of_toNat {rc : BitVec 5} (h : rc.toNat = 16) : rc = 16#5 :=
  BitVec.eq_of_toNat_eq h

end Invariant

/-- Settles O22: every operation keeps the invariant, and the host does not touch it. -/
theorem everyStepKeepsTheInvariant : Obligations.EveryStepKeepsTheInvariant :=
  fun _ _ => step_inv

/-- Settles O23: the reset state is what `RESET` leaves of itself. -/
theorem resetHasTheInvariant : Obligations.ResetHasTheInvariant :=
  State.resetRegisters_inv (s := State.reset)

/-- Settles O17: the step is the host's part alone. -/
theorem nothingSelectedChangesNoRegister : Obligations.NothingSelectedChangesNoRegister :=
  fun s hr hs hp =>
    ⟨s.advanceHost, step_of_nothing_selected hr hs hp, s.advanceHost_registers, rfl, rfl⟩

/-- Settles O25, by the kinds of step: a round and a step with nothing selected keep `PHASE`, and each of
the others writes it as R26 lists. -/
theorem phaseChangesOnlyAsListed : Obligations.PhaseChangesOnlyAsListed := by
  intro s t h hne
  obtain ⟨u, hu, rfl⟩ := step_next h
  cases hu with
  | reset hr => exact .inl ⟨hr, rfl⟩
  | refuse hr hs hp a ha =>
    have hlen : s.ports.cmd.extractLsb' 1 8 ≠ 0x88#8 := fun h8 => by
      simp [sizeViolation_cmd_eq_none.mpr h8] at ha
    exact .inr (.inl ⟨hr, hs, hp, .inr ⟨hlen, rfl⟩⟩)
  | accept hr hs hp ha =>
    exact .inr (.inl ⟨hr, hs, hp, .inl ⟨sizeViolation_cmd_eq_none.mp ha, rfl⟩⟩)
  | round => exact absurd rfl hne
  | finish hr hs hp hrc => exact .inr (.inr ⟨hr, hs, hp, rc_eq_of_toNat hrc, rfl⟩)
  | idle => exact absurd rfl hne

/-- Settles O26: in BUSY without reset a step is a round or `FINISH`; outside BUSY it is a command, which
writes 0 to `RC`, or changes no register. -/
theorem modeFixedAndRcCounts : Obligations.ModeFixedAndRcCounts := by
  intro s t h hrst
  obtain ⟨u, hu, rfl⟩ := step_next h
  cases hu with
  | reset hr => simp [hrst] at hr
  | refuse _ _ hp => exact ⟨fun hb => absurd hb hp, fun _ => .inr rfl⟩
  | accept _ _ hp => exact ⟨fun hb => absurd hb hp, fun _ => .inr rfl⟩
  | round _ _ hp _ _ hrc =>
    exact ⟨fun _ => ⟨rfl, .inl ⟨Nat.le_of_lt_succ hrc, toNat_rc_succ hrc, hp⟩⟩,
      fun hb => absurd hp hb⟩
  | finish _ _ hp hrc => exact ⟨fun _ => ⟨rfl, .inr ⟨hrc, rfl, rfl⟩⟩, fun hb => absurd hp hb⟩
  | idle _ _ hp => exact ⟨fun hb => absurd hb hp, fun _ => .inl rfl⟩

/-- Settles O27: the first part is what the invariant, kept by the step, says of the next state; the
second is by the kinds of step. -/
theorem nothingIsLeftOver : Obligations.NothingIsLeftOver := by
  intro s t h
  refine ⟨fun hi => ⟨(step_inv hi h).datapath_none, (step_inv hi h).result_none⟩, fun hne => ?_⟩
  obtain ⟨u, hu, rfl⟩ := step_next h
  cases hu with
  | reset hr => exact .inl ⟨rfl, .inl hr⟩
  | refuse _ hs => exact .inl ⟨rfl, .inr hs⟩
  | accept _ hs => exact .inl ⟨rfl, .inr hs⟩
  | round => exact absurd rfl hne
  | finish hr hs hp hrc => exact .inr ⟨hr, hs, hp, rc_eq_of_toNat hrc, rfl⟩
  | idle => exact absurd rfl hne

end Sys2Proof.Machine

/-! # The memory of CORE: its constant tables, and what a transaction can depend on (spec/20_memory.md) -/

namespace Sys2Proof.Machine

/-! ## A presented command, where commands are taken (R52, R153) -/

section PresentedCommand

variable {s t : State}

/-- R150: a presented command is the step taken, whatever `PHASE` is. -/
theorem step_of_command (hr : s.ports.rst = false) (hs : s.ports.start = true) :
    step s = mapNext State.advanceHost
      (commandStep tables (Mode.ofBit (s.ports.cmd.extractLsb' 0 1)) (s.ports.cmd.extractLsb' 1 4)
        (s.ports.cmd.extractLsb' 5 4) s) := by
  have hfetch : s.fetch = .ok (some (.cmd s.ports.cmd)) := by simp [State.fetch, hr, hs]
  rw [step_eq_stepWith, ← execWith_decodeCmd]
  simp only [stepWith, stepBy, hfetch, decode]

theorem commandStep_accepted {T : Tables} {m : Mode} {blen klen : LenField} (hp : s.phase ≠ .busy)
    (ha : sizeViolation blen klen = none) :
    commandStep T m blen klen s = .next (s.beginCommand.load T m) := by
  simp only [commandStep, if_neg hp, ha]

theorem commandStep_refused {T : Tables} {m : Mode} {blen klen a : LenField} (hp : s.phase ≠ .busy)
    (ha : sizeViolation blen klen = some a) :
    commandStep T m blen klen s = .next (s.beginCommand.raiseSizeMismatch 8#4 a) := by
  simp only [commandStep, if_neg hp, ha]
  rfl

/-- R153: an accepted command writes every register, and reads nothing but the data ports. -/
theorem State.load_registers_of_ports_eq {T : Tables} {m : Mode} (h : s.ports = t.ports) :
    (s.beginCommand.load T m).registers = (t.beginCommand.load T m).registers := by
  simp [State.registers_eq_iff, h]

/-- R186: error entry writes every register but `MODE`, and reads none. -/
theorem State.raiseSizeMismatch_registers_but_mode {e a : LenField} :
    { (s.raiseSizeMismatch e a).registers with mode := none } =
      { (t.raiseSizeMismatch e a).registers with mode := none } := rfl

/-- R150: no output port shows `MODE`, nor anything that is not a register. -/
theorem State.outputs_of_registers_but_mode
    (h : { s.registers with mode := none } = { t.registers with mode := none }) :
    s.outputs = t.outputs := by
  have houtputs := congrArg State.outputs h
  exact houtputs

end PresentedCommand

/-- Settles O29: the ports alone decide which of the two outcomes a command has; an accepted one writes
every register from the ports, a refused one every register but `MODE`, and the outputs do not show
`MODE`. -/
theorem commandOutcomeDependsOnOperandsOnly : Obligations.CommandOutcomeDependsOnOperandsOnly := by
  intro s₁ s₂ hp₁ hp₂ hports hr hs
  have hstep₂ := step_of_command (hports ▸ hr) (hports ▸ hs)
  rw [← hports] at hstep₂
  rw [step_of_command hr hs, hstep₂]
  cases ha : sizeViolation (s₁.ports.cmd.extractLsb' 1 4) (s₁.ports.cmd.extractLsb' 5 4) with
  | none =>
    rw [commandStep_accepted hp₁ ha, commandStep_accepted hp₂ ha]
    have hreg := State.load_registers_of_ports_eq (T := tables)
      (m := Mode.ofBit (s₁.ports.cmd.extractLsb' 0 1)) hports
    have hbut := congrArg (fun u : State => { u with mode := none }) hreg
    exact ⟨_, _, rfl, rfl, State.outputs_of_registers_but_mode hbut, fun _ => hreg, hbut⟩
  | some a =>
    rw [commandStep_refused hp₁ ha, commandStep_refused hp₂ ha]
    have hbut := State.raiseSizeMismatch_registers_but_mode (s := s₁.beginCommand)
      (t := s₂.beginCommand) (e := 8#4) (a := a)
    exact ⟨_, _, rfl, rfl, State.outputs_of_registers_but_mode hbut, fun hb => by simp at hb, hbut⟩

/-! ## The S-box ROM (R40, R41) -/

/-- R43 (5) as a statement about the S-box tables. -/
theorem sboxOk_iff (T : Tables) :
    T.sboxOk = true ↔
      T.sbox.length = 8 ∧ ∀ t ∈ T.sbox, t.length = 64 ∧ ∀ v ∈ t, v < 16 := by
  simp [Tables.sboxOk, Config.nSbox, Config.sboxDepth, Config.sboxWidth]

/-- Lists of one length `n` laid end to end: entry `i` of list `j` stands at `n * j + i`. -/
theorem getElem?_flatten_of_forall_length {α : Type} {n : Nat} {ls : List (List α)}
    (h : ∀ l ∈ ls, l.length = n) (j : Nat) {i : Nat} (hi : i < n) :
    ls.flatten[n * j + i]? = ls[j]?.bind (·[i]?) := by
  induction ls generalizing j with
  | nil => simp
  | cons l ls ih =>
    obtain ⟨hl, hls⟩ := List.forall_mem_cons.mp h
    rw [List.flatten_cons]
    cases j with
    | zero => simp [List.getElem?_append_left (hl ▸ hi)]
    | succ j =>
      have hle : l.length ≤ n * (j + 1) + i := by rw [hl, Nat.mul_succ]; omega
      have hsub : n * (j + 1) + i - l.length = n * j + i := by rw [hl, Nat.mul_succ]; omega
      rw [List.getElem?_append_right hle, hsub, ih hls, List.getElem?_cons_succ]

/-- R41: eight tables of 64 entries fill 512 addresses. -/
theorem length_rom {T : Tables} (h : T.sboxOk = true) : (rom T).length = 512 := by
  obtain ⟨hlen, htables⟩ := (sboxOk_iff T).mp h
  have hconst : ∀ x ∈ T.sbox.map List.length, x = 64 :=
    List.forall_mem_map.mpr fun t ht => (htables t ht).1
  rw [rom, List.length_map, List.length_flatten, List.sum_eq_card_nsmul _ _ hconst, List.length_map, hlen]
  rfl

/-- R41: the flat address of entry `i` of table `j` holds what `RomRead(j, i)` returns. -/
theorem getElem?_rom_romAddress {T : Tables} (h : T.sboxOk = true) {j i : Nat} (hj : j < 8)
    (hi : i < 64) : (rom T)[romAddress j i]? = some (romRead T j i) := by
  obtain ⟨hlen, htables⟩ := (sboxOk_iff T).mp h
  have hlens : ∀ t ∈ T.sbox, t.length = 64 := fun t ht => (htables t ht).1
  have hj : j < T.sbox.length := hlen ▸ hj
  have hij : i < T.sbox[j].length := by rwa [hlens _ (List.getElem_mem hj)]
  rw [rom, romAddress, List.getElem?_map, getElem?_flatten_of_forall_length hlens j hi]
  simp [romRead, hj, hij]

/-- Settles O53: the ROM is the eight tables end to end. -/
theorem romReadIsTheFlatRead : Obligations.RomReadIsTheFlatRead :=
  fun _ h => ⟨length_rom h, fun _ _ => getElem?_rom_romAddress h⟩

/-! ## The constant tables (R43, R57) -/

section Run

variable {M : Host.Core} {k : Nat} {s t : M.State}

/-- A run goes on from the next state of its first step. -/
theorem run_succ_of_next (h : M.step s = .next t) : M.run (k + 1) s = M.run k t := by
  rw [Host.Core.run, h]

/-- A run ends at the first fault. -/
theorem run_succ_of_fault {e : M.Fault} (h : M.step s = .fault e) : M.run (k + 1) s = .fault e := by
  rw [Host.Core.run, h]

/-- A run ends at the first refusal. -/
theorem run_succ_of_refused {e : M.Refusal} (h : M.step s = .refused e) :
    M.run (k + 1) s = .refused e := by
  rw [Host.Core.run, h]

end Run

/-- Settles O31, by induction on the number of steps: each step is the step over the machine's tables. -/
theorem runIsTheRunOverTheMachinesTables : Obligations.RunIsTheRunOverTheMachinesTables := by
  intro k
  induction k with
  | zero => exact fun _ => rfl
  | succ k ih =>
    intro s
    rw [runWith, ← step_eq_stepWith]
    cases h : step s with
    | next t => exact (run_succ_of_next (M := Sys2Proof.core) h).trans (ih t)
    | fault e => exact run_succ_of_fault (M := Sys2Proof.core) h
    | refused e => exact run_succ_of_refused (M := Sys2Proof.core) h

/-- Settles O55: each of the seven conditions of R43 is a finite check of the default tables. -/
theorem defaultTablesAreAdmissible : Obligations.DefaultTablesAreAdmissible := by
  refine (admissible_iff tables).mpr ⟨?lengths, ?ranges, ?dropped, ?expansion, ?sbox, ?inverse, ?fixture⟩
  case lengths => decide
  case ranges => decide
  case dropped => decide
  case expansion => decide
  case sbox => decide
  case inverse => decide
  case fixture => decide

end Sys2Proof.Machine

/-! # The three control formats (spec/30_encoding.md R70 to R85) -/

/-! ## Codes (R72, R82, R83) -/

namespace Sys2Proof

@[simp] theorem Mode.ofBit_bit (m : Mode) : Mode.ofBit m.bit = m := by
  cases m <;> rfl

/-- R84 (e): the mode field has one bit, and both of its values are modes. -/
@[simp] theorem Mode.bit_ofBit (b : BitVec 1) : (Mode.ofBit b).bit = b := by
  revert b
  decide

end Sys2Proof

namespace Sys2Proof.Machine

@[simp] theorem Phase.ofCode_code (p : Phase) : Phase.ofCode p.code = p := by
  cases p <;> rfl

/-- R82: all four codes are used. -/
@[simp] theorem Phase.code_ofCode (c : BitVec 2) : (Phase.ofCode c).code = c := by
  revert c
  decide

/-- R83: codes 5 to 7 are reserved. -/
theorem ErrCode.code_le (e : ErrCode) : e.code.toNat ≤ 4 := by
  cases e <;> decide

/-! ## A word of three fields -/

section Fields

variable {x y z : Nat} (a : BitVec x) (b : BitVec y) (c : BitVec z)

theorem extractLsb'_low_field : (a ++ b ++ c).extractLsb' 0 z = c := by
  rw [BitVec.extractLsb'_append_eq_of_add_le (by omega), BitVec.extractLsb'_eq_self]

theorem extractLsb'_middle_field : (a ++ b ++ c).extractLsb' z y = b := by
  rw [BitVec.extractLsb'_append_eq_of_le (Nat.le_refl z), Nat.sub_self,
    BitVec.extractLsb'_append_eq_of_add_le (by omega), BitVec.extractLsb'_eq_self]

theorem extractLsb'_high_field : (a ++ b ++ c).extractLsb' (y + z) x = a := by
  rw [BitVec.extractLsb'_append_eq_of_le (Nat.le_add_left z y), Nat.add_sub_cancel,
    BitVec.extractLsb'_append_eq_of_le (Nat.le_refl y), Nat.sub_self, BitVec.extractLsb'_eq_self]

/-- A word is its three fields. -/
theorem append_three_fields (w : BitVec (x + y + z)) :
    w.extractLsb' (y + z) x ++ w.extractLsb' z y ++ w.extractLsb' 0 z = w := by
  rw [BitVec.extractLsb'_append_extractLsb'_eq_extractLsb' (Nat.add_comm y z),
    BitVec.extractLsb'_append_extractLsb'_eq_extractLsb' (Nat.zero_add z).symm,
    BitVec.extractLsb'_eq_self]

end Fields

/-! ## The command word (R71) -/

section CommandWord

variable (m : Mode) (blen klen : LenField)

@[simp] theorem commandWord_mode : (commandWord m blen klen).extractLsb' 0 1 = m.bit :=
  extractLsb'_low_field klen blen m.bit

@[simp] theorem commandWord_blen : (commandWord m blen klen).extractLsb' 1 4 = blen :=
  extractLsb'_middle_field klen blen m.bit

@[simp] theorem commandWord_klen : (commandWord m blen klen).extractLsb' 5 4 = klen :=
  extractLsb'_high_field klen blen m.bit

/-- R71: every 9-bit word is the command word of its three fields. -/
theorem commandWord_fields (w : BitVec 9) :
    commandWord (Mode.ofBit (w.extractLsb' 0 1)) (w.extractLsb' 1 4) (w.extractLsb' 5 4) = w := by
  rw [commandWord, Mode.bit_ofBit]
  exact append_three_fields (x := 4) (y := 4) (z := 1) w

/-- R72: the mode bit of a command word is its bit 0. -/
theorem ofBit_extractLsb'_zero (w : BitVec 9) :
    Mode.ofBit (w.extractLsb' 0 1) = if w.getLsbD 0 then .decrypt else .encrypt := by
  revert w
  decide

/-- The operation of a mode's mnemonic (R151, R152). -/
def commandOf : Mode → LenField → LenField → Instr
  | .encrypt => .enc
  | .decrypt => .dec

theorem commandOf_wellFormed : (commandOf m blen klen).wellFormed = true := by
  cases m <;> rfl

theorem encode_commandOf : encode (commandOf m blen klen) = .cmd (commandWord m blen klen) := by
  cases m <;> rfl

/-- R71, R84 (a): every command word decodes, by its three fields. -/
theorem decodeCmd_eq_commandOf (w : BitVec 9) :
    decodeCmd w =
      commandOf (Mode.ofBit (w.extractLsb' 0 1)) (w.extractLsb' 1 4) (w.extractLsb' 5 4) := by
  rw [decodeCmd]
  cases Mode.ofBit (w.extractLsb' 0 1) <;> rfl

theorem decodeCmd_commandWord : decodeCmd (commandWord m blen klen) = commandOf m blen klen := by
  simp [decodeCmd_eq_commandOf]

end CommandWord

/-! ## The sequencer's word (R81) -/

/-- R81: `PHASE[1:0] || MODE || RC[4:0]`. -/
def sequencerWord (p : Phase) (m : Mode) (rc : BitVec 5) : BitVec 8 := p.code ++ m.bit ++ rc

section SequencerWord

variable (p : Phase) (m : Mode) (rc : BitVec 5)

@[simp] theorem sequencerWord_phase : (sequencerWord p m rc).extractLsb' 6 2 = p.code :=
  extractLsb'_high_field p.code m.bit rc

@[simp] theorem sequencerWord_mode : (sequencerWord p m rc).extractLsb' 5 1 = m.bit :=
  extractLsb'_middle_field p.code m.bit rc

@[simp] theorem sequencerWord_rc : (sequencerWord p m rc).extractLsb' 0 5 = rc :=
  extractLsb'_low_field p.code m.bit rc

/-- R81: every 8-bit word is the sequencer's word of one phase, mode and count. -/
theorem exists_sequencerWord (w : BitVec 8) : ∃ p m rc, w = sequencerWord p m rc := by
  refine ⟨Phase.ofCode (w.extractLsb' 6 2), Mode.ofBit (w.extractLsb' 5 1), w.extractLsb' 0 5, ?_⟩
  rw [sequencerWord, Phase.code_ofCode, Mode.bit_ofBit]
  exact (append_three_fields (x := 2) (y := 1) (z := 5) w).symm

theorem State.seqWord_of_mode {s : State} {m : Mode} (hm : s.mode = some m) :
    s.seqWord = some (sequencerWord s.phase m s.rc) := by
  rw [State.seqWord, hm]
  rfl

/-- R81: outside BUSY the sequencer's word selects nothing. -/
theorem decode_sequencerWord_not_busy (hp : p ≠ .busy) :
    decode (.seq (sequencerWord p m rc)) = .error .noSequencerStep := by
  revert rc
  cases p with
  | busy => exact absurd rfl hp
  | idle => cases m <;> decide
  | done => cases m <;> decide
  | error => cases m <;> decide

/-- The operation `mode` selects for a round (R158). -/
def roundOf : Mode → BitVec 5 → Instr
  | .encrypt => .roundE
  | .decrypt => .roundD

theorem decode_sequencerWord_round (hrc : rc.toNat < 16) :
    decode (.seq (sequencerWord .busy m rc)) = .ok (roundOf m rc) := by
  rw [sequencerWord, decode_busyWord, if_pos hrc]
  cases m <;> rfl

theorem decode_sequencerWord_finish (hrc : rc.toNat = 16) :
    decode (.seq (sequencerWord .busy m rc)) = .ok (.finish m) := by
  rw [sequencerWord, decode_busyWord, if_neg (by omega), if_pos hrc]

theorem decode_sequencerWord_stuck (hrc : 16 < rc.toNat) :
    decode (.seq (sequencerWord .busy m rc)) = .error .roundCounterOutOfRange := by
  rw [sequencerWord, decode_busyWord, if_neg (by omega), if_neg (by omega)]

theorem encode_roundOf : encode (roundOf m rc) = .seq (sequencerWord .busy m rc) := by
  cases m <;> rfl

theorem encode_finish : encode (.finish m) = .seq (sequencerWord .busy m 16#5) := rfl

theorem roundOf_wellFormed : (roundOf m rc).wellFormed = decide (rc.toNat < 16) := by
  cases m <;> rfl

end SequencerWord

/-! ## Decoding and encoding are inverse to each other -/

/-- R71, R81, R84: no bit of an encoding is dropped. -/
theorem decode_encode (i : Instr) (hi : i.wellFormed = true) : decode (encode i) = .ok i := by
  cases i with
  | enc blen klen => exact congrArg Except.ok (decodeCmd_commandWord .encrypt blen klen)
  | dec blen klen => exact congrArg Except.ok (decodeCmd_commandWord .decrypt blen klen)
  | roundE rc => exact decode_sequencerWord_round .encrypt rc (of_decide_eq_true hi)
  | roundD rc => exact decode_sequencerWord_round .decrypt rc (of_decide_eq_true hi)
  | finish m => exact decode_sequencerWord_finish m 16#5 rfl
  | reset => rfl

theorem encode_of_decode_cmd {w : BitVec 9} {i : Instr} (h : decode (.cmd w) = .ok i) :
    encode i = .cmd w ∧ i.wellFormed = true := by
  cases h
  rw [decodeCmd_eq_commandOf, encode_commandOf, commandWord_fields]
  exact ⟨rfl, commandOf_wellFormed ..⟩

/-- A word of the sequencer's that decodes has `PHASE = BUSY` and a count of at most 16. -/
theorem encode_of_decode_seq {w : BitVec 8} {i : Instr} (h : decode (.seq w) = .ok i) :
    encode i = .seq w ∧ i.wellFormed = true := by
  obtain ⟨p, m, rc, rfl⟩ := exists_sequencerWord w
  by_cases hp : p = .busy
  · subst hp
    rcases Nat.lt_trichotomy rc.toNat 16 with hrc | hrc | hrc
    · rw [decode_sequencerWord_round m rc hrc] at h
      cases h
      exact ⟨encode_roundOf m rc, by simp [roundOf_wellFormed, hrc]⟩
    · rw [decode_sequencerWord_finish m rc hrc] at h
      cases h
      rw [encode_finish, rc_eq_of_toNat hrc]
      exact ⟨rfl, rfl⟩
    · simp [decode_sequencerWord_stuck m rc hrc] at h
  · simp [decode_sequencerWord_not_busy p m rc hp] at h

/-- R84 (d): only the asserted reset input decodes. -/
theorem decode_pin_eq_ok {r : BitVec 1} {i : Instr} (h : decode (.pin r) = .ok i) :
    r = 1#1 ∧ i = .reset := by
  by_cases hr : r = 1#1
  · subst hr
    cases h
    exact ⟨rfl, rfl⟩
  · simp [decode, decodePin, hr] at h

theorem encode_of_decode {c : ControlWord} {i : Instr} (h : decode c = .ok i) :
    encode i = c ∧ i.wellFormed = true := by
  cases c with
  | cmd w => exact encode_of_decode_cmd h
  | seq w => exact encode_of_decode_seq h
  | pin r =>
    obtain ⟨rfl, rfl⟩ := decode_pin_eq_ok h
    exact ⟨rfl, rfl⟩

/-! ## The byte form (log entry 7) -/

/-- The high byte of a command word is its bit 8 and seven spare zeros. -/
theorem ofBytes_cmd (lo : Byte) (b : BitVec 1) :
    ControlWord.ofBytes [lo, 0#7 ++ b] = .ok (.cmd (b ++ lo)) := by
  have hspare : (0#7 ++ b) &&& 0xFE#8 = 0#8 := by
    revert b
    decide
  have hbit : (0#7 ++ b).extractLsb' 0 1 = b := by
    rw [BitVec.extractLsb'_append_eq_of_add_le (by omega), BitVec.extractLsb'_eq_self]
  rw [ControlWord.ofBytes, if_pos hspare]
  exact congrArg (fun x => Except.ok (ControlWord.cmd (x ++ lo))) hbit

/-- A control word that decodes is read back from its bytes; the byte 01 as a word of the
sequencer's, which the byte form has no room for, is none. -/
theorem ofBytes_toBytes {c : ControlWord} {i : Instr} (h : decode c = .ok i) :
    ControlWord.ofBytes c.toBytes = .ok c := by
  cases c with
  | cmd w =>
    have hw : w.extractLsb' 8 1 ++ w.extractLsb' 0 8 = w := by
      rw [BitVec.extractLsb'_append_extractLsb'_eq_extractLsb' (Nat.zero_add 8).symm,
        BitVec.extractLsb'_eq_self]
    rw [ControlWord.toBytes, ofBytes_cmd, hw]
  | seq w =>
    have hw : w ≠ 0x01#8 := by
      rintro rfl
      cases h
    rw [ControlWord.toBytes, ControlWord.ofBytes, if_neg hw]
  | pin r =>
    obtain ⟨rfl, -⟩ := decode_pin_eq_ok h
    rfl

theorem decodeBytes_toBytes {c : ControlWord} {i : Instr} (h : decode c = .ok i) :
    decodeBytes c.toBytes = .ok i := by
  rw [decodeBytes, ofBytes_toBytes h]
  exact h

/-! ## Rows of the opcode table (R81, R85) -/

/-- R81: the rows a word of the sequencer's selects by `match` and `mask`: the three masks of the
decoder, of which at most one matches. -/
theorem selectedRows_seq (w : BitVec 8) :
    selectedRows (.seq w) =
      if w &&& 0xF0#8 = 0x40#8 then ["ROUND.E"]
      else if w &&& 0xF0#8 = 0x60#8 then ["ROUND.D"]
      else if w &&& 0xDF#8 = 0x50#8 then ["FINISH"]
      else [] := by
  revert w
  decide

/-! ## The two accepted command words (R71) -/

/-- R71: the words whose two length fields are 8 and 8. -/
theorem lengths_eight_iff (w : BitVec 9) :
    w.extractLsb' 1 8 = 0x88#8 ↔ w = 0x110#9 ∨ w = 0x111#9 := by
  revert w
  decide

theorem exec_eq_execWith (i : Instr) (s : State) : exec i s = execWith tables i s := by
  cases i <;> rfl

theorem exec_decodeCmd_accepted {s : State} {w : BitVec 9} (hp : s.phase ≠ .busy)
    (hw : w.extractLsb' 1 8 = 0x88#8) :
    exec (decodeCmd w) s = .next (s.beginCommand.load tables (Mode.ofBit (w.extractLsb' 0 1))) := by
  rw [exec_eq_execWith, execWith_decodeCmd,
    commandStep_accepted hp (sizeViolation_cmd_eq_none.mpr hw)]

theorem exec_decodeCmd_refused {s : State} {w : BitVec 9} (hp : s.phase ≠ .busy)
    (hw : w.extractLsb' 1 8 ≠ 0x88#8) :
    ∃ a, exec (decodeCmd w) s = .next (s.beginCommand.raiseSizeMismatch 8#4 a) := by
  obtain ⟨a, ha⟩ := Option.ne_none_iff_exists'.mp (mt sizeViolation_cmd_eq_none.mp hw)
  exact ⟨a, by rw [exec_eq_execWith, execWith_decodeCmd, commandStep_refused hp ha]⟩

/-! ## The obligations -/

/-- Settles O18: the word decodes field by field, and the bytes are read back as the word. -/
theorem decodeOfEncodeIsTheInstruction : Obligations.DecodeOfEncodeIsTheInstruction :=
  fun i hi => ⟨decode_encode i hi, decodeBytes_toBytes (decode_encode i hi)⟩

/-- Settles O19: every word is its fields, and those that decode are the fields of an instruction. -/
theorem encodeOfDecodeIsTheWord : Obligations.EncodeOfDecodeIsTheWord :=
  fun _ _ => encode_of_decode

/-- Settles O20: each word is the encoding of its operation. -/
theorem tableWordsDecode : Obligations.TableWordsDecode :=
  ⟨decode_encode (.enc 8#4 8#4) rfl, decode_encode (.dec 7#4 3#4) rfl,
    decode_encode (.roundE 9#5) rfl, decode_encode (.roundD 14#5) rfl,
    decode_encode (.finish .decrypt) rfl, decode_encode .reset rfl⟩

/-- Settles O57: the codes are their tables, and each code is read back. -/
theorem statusCodes : Obligations.StatusCodes :=
  ⟨rfl, rfl, rfl, rfl, rfl, rfl, rfl, rfl, rfl, rfl, rfl, Phase.ofCode_code, Mode.ofBit_bit,
    ErrCode.code_le⟩

/-- Settles O14: the word decodes by phase and count, and the decoder tests the masks of the rows. -/
theorem sequencerWordSelectsByPhaseModeRc : Obligations.SequencerWordSelectsByPhaseModeRc := by
  refine ⟨fun s m hm => ⟨sequencerWord s.phase m s.rc, State.seqWord_of_mode hm,
    sequencerWord_phase .., sequencerWord_mode .., sequencerWord_rc .., ?decoded⟩, ?rows⟩
  case decoded =>
    by_cases hp : s.phase = .busy
    · rw [if_pos hp, hp, sequencerWord, decode_busyWord]
      cases m <;> rfl
    · rw [if_neg hp, decode_sequencerWord_not_busy _ _ _ hp]
  case rows =>
    intro w
    rw [selectedRows_seq, decode, decodeSeq]
    split_ifs <;> rfl

/-- Settles O6: the fields are read from their bits, and the size check passes for the two words whose
length fields are both 8. -/
theorem commandWordFieldsAndTheTwoAcceptedWords :
    Obligations.CommandWordFieldsAndTheTwoAcceptedWords := by
  intro w
  refine ⟨?fields, fun s i hp hi => ?outcome⟩
  case fields =>
    rw [decode, decodeCmd_eq_commandOf, ofBit_extractLsb'_zero]
    cases w.getLsbD 0 <;> rfl
  case outcome =>
    cases hi
    rw [← lengths_eight_iff]
    by_cases hw : w.extractLsb' 1 8 = 0x88#8
    · exact ⟨_, exec_decodeCmd_accepted hp hw, by simp [hw], fun hne => absurd hw hne⟩
    · obtain ⟨a, ha⟩ := exec_decodeCmd_refused hp hw
      exact ⟨_, ha, by simp [hw], fun _ => ⟨rfl, rfl⟩⟩

end Sys2Proof.Machine

/-! # Bytes on a data port (spec/30_encoding.md R74, R86) -/

namespace Sys2Proof.Machine

/-! ## Byte sequences as numbers (R14) -/

section Numbers

variable (a b : List Byte)

theorem numOfBytes_concat (x : Byte) : numOfBytes (a ++ [x]) = 256 * numOfBytes a + x.toNat := by
  simp [numOfBytes]

theorem numOfBytes_lt : numOfBytes b < 256 ^ b.length := by
  induction b using List.reverseRecOn with
  | nil => decide
  | append_singleton b x ih =>
    rw [numOfBytes_concat, List.length_append, List.length_singleton, Nat.pow_succ]
    have := x.isLt
    omega

theorem numOfBytes_append : numOfBytes (a ++ b) = 256 ^ b.length * numOfBytes a + numOfBytes b := by
  induction b using List.reverseRecOn with
  | nil => simp [numOfBytes]
  | append_singleton b x ih =>
    rw [← List.append_assoc, numOfBytes_concat, numOfBytes_concat, ih, List.length_append,
      List.length_singleton]
    ring

/-- R14: the first bytes of a sequence are the high digits of its number. -/
theorem numOfBytes_take (m : Nat) : numOfBytes (b.take m) = numOfBytes b / 256 ^ (b.length - m) := by
  have hlt := numOfBytes_lt (b.drop m)
  have happ := numOfBytes_append (b.take m) (b.drop m)
  rw [List.take_append_drop] at happ
  rw [List.length_drop] at hlt happ
  rw [happ, Nat.mul_add_div (by positivity), Nat.div_eq_of_lt hlt, Nat.add_zero]

/-- R14: byte `m` is digit `m` of the number, from the high end. -/
theorem toNat_getElem_eq_numOfBytes {m : Nat} (hm : m < b.length) :
    b[m].toNat = numOfBytes b / 256 ^ (b.length - (m + 1)) % 256 := by
  have := b[m].isLt
  rw [← numOfBytes_take, List.take_succ_eq_append_getElem hm, numOfBytes_concat]
  omega

end Numbers

/-! ## Byte sequences as bit strings (R13) -/

section BitStrings

variable {n len : Nat}

theorem toNat_vecOfBytes {b : List Byte} (h : n = 8 * b.length) :
    (vecOfBytes n b).toNat = numOfBytes b := by
  have hlt := numOfBytes_lt b
  rw [vecOfBytes, BitVec.toNat_ofNat, h, Nat.pow_mul]
  exact Nat.mod_eq_of_lt hlt

/-- R13: byte `m` of a bit string that a byte sequence is. -/
theorem streamSlice_vecOfBytes {b : List Byte} (h : n = 8 * b.length) {m : Nat} (hm : m < b.length) :
    streamSlice (vecOfBytes n b) (8 * m) 8 = b[m] := by
  apply BitVec.eq_of_toNat_eq
  have hpos : n - (8 * m + 8) = 8 * (b.length - (m + 1)) := by omega
  rw [streamSlice, BitVec.extractLsb'_toNat, toNat_vecOfBytes h, toNat_getElem_eq_numOfBytes b hm,
    Nat.shiftRight_eq_div_pow, hpos, Nat.pow_mul]

theorem length_bytesOfVec (v : BitVec n) : (bytesOfVec len v).length = len := by
  simp [bytesOfVec]

theorem getElem?_bytesOfVec (v : BitVec n) {m : Nat} (hm : m < len) :
    (bytesOfVec len v)[m]? = some (streamSlice v (8 * m) 8) := by
  simp [bytesOfVec, hm]

/-- A byte sequence is the bytes of its bit string. -/
theorem bytesOfVec_vecOfBytes {b : List Byte} (h : n = 8 * b.length) :
    bytesOfVec b.length (vecOfBytes n b) = b := by
  apply List.ext_getElem (length_bytesOfVec _)
  intro m hm hm'
  simp [bytesOfVec, streamSlice_vecOfBytes h hm']

/-- R14: the first `len` bytes of a bit string are the high part of its number. -/
theorem numOfBytes_bytesOfVec (v : BitVec n) (h : 8 * len ≤ n) :
    numOfBytes (bytesOfVec len v) = v.toNat / 2 ^ (n - 8 * len) := by
  induction len with
  | zero => exact (Nat.div_eq_of_lt v.isLt).symm
  | succ len ih =>
    have hpos : n - 8 * len = n - (8 * len + 8) + 8 := by omega
    have hcat : bytesOfVec (len + 1) v = bytesOfVec len v ++ [streamSlice v (8 * len) 8] := by
      simp [bytesOfVec, List.range_succ]
    rw [hcat, numOfBytes_concat, ih (by omega), streamSlice, BitVec.extractLsb'_toNat,
      Nat.shiftRight_eq_div_pow, hpos, Nat.pow_add, ← Nat.div_div_eq_div_mul, Nat.mul_succ]
    exact Nat.div_add_mod _ 256

/-- A bit string of whole bytes is the bit string of its bytes. -/
theorem vecOfBytes_bytesOfVec (v : BitVec n) (h : n = 8 * len) :
    vecOfBytes n (bytesOfVec len v) = v := by
  apply BitVec.eq_of_toNat_eq
  rw [toNat_vecOfBytes (by rw [length_bytesOfVec, h]), numOfBytes_bytesOfVec v h.ge,
    Nat.sub_eq_zero_of_le h.le, Nat.pow_zero, Nat.div_one]

/-- R13: bit `i` of byte `j` is stream bit `8 * j + i` of the sequence. -/
theorem getElem?_bitsOfBytes (b : List Byte) (j : Nat) {i : Nat} (hi : i < 8) :
    (bitsOfBytes b)[8 * j + i]? = b[j]?.map fun x => x.getMsbD i := by
  have hlen : ∀ l ∈ b.map fun x => (List.range 8).map fun k => x.getMsbD k, l.length = 8 := by
    simp
  rw [bitsOfBytes, List.flatMap_def, getElem?_flatten_of_forall_length hlen j hi, List.getElem?_map]
  cases b[j]? <;> simp [hi]

/-- R13: the bits of a byte sequence stand in stream order in its bit string. -/
theorem getElem?_bitsOfBytes_eq_getMsbD {b : List Byte} (h : n = 8 * b.length) {k : Nat}
    (hk : k < n) :
    (bitsOfBytes b)[k]? = some ((vecOfBytes n b).getMsbD k) := by
  have hj : k / 8 < b.length := by omega
  have hi : k % 8 < 8 := by omega
  have hbit := getMsbD_streamSlice (vecOfBytes n b) (8 * (k / 8)) 8 (k % 8) (by omega)
  rw [streamSlice_vecOfBytes h hj, Nat.div_add_mod] at hbit
  rw [← Nat.div_add_mod k 8, getElem?_bitsOfBytes b _ hi, List.getElem?_eq_getElem hj,
    Nat.div_add_mod]
  simp [hbit, hi]

/-- R13: stream bit `k` of `n` bits is bit `n - 1 - k` of the number. -/
theorem getLsbD_eq_getMsbD (v : BitVec n) {k : Nat} (hk : k < n) :
    v.getLsbD (n - 1 - k) = v.getMsbD k := by
  simp [BitVec.getMsbD, hk]

end BitStrings

/-! ## Ports and operands (R74, R86) -/

section Ports

/-- R74: byte `m` of a port is `p[63-8m : 56-8m]`. -/
theorem streamSlice_port (p : BitVec 64) (m : Nat) :
    streamSlice p (8 * m) 8 = p.extractLsb' (56 - 8 * m) 8 := by
  have hpos : 64 - (8 * m + 8) = 56 - 8 * m := by omega
  rw [streamSlice, hpos]

/-- The eight bytes an operand drives: its first eight, with zeros after them. -/
theorem getElem_operand_padded (b : List Byte) {i : Nat}
    (hi : i < ((b ++ List.replicate 8 0#8).take 8).length) :
    ((b ++ List.replicate 8 0#8).take 8)[i] = b.getD i 0#8 := by
  rw [List.getElem_take]
  by_cases hb : i < b.length
  · rw [List.getElem_append_left hb, List.getD_eq_getElem _ _ hb]
  · rw [List.getElem_append_right (by omega), List.getElem_replicate,
      List.getD_eq_default _ _ (by omega)]

theorem length_operand_padded (b : List Byte) :
    ((b ++ List.replicate 8 0#8).take 8).length = 8 := by
  simp

/-- R86: byte `i` of the port an operand is driven on. -/
theorem extractLsb'_operandPort (b : List Byte) {i : Nat} (hi : i < 8) :
    (operandPort b).extractLsb' (56 - 8 * i) 8 = b.getD i 0#8 := by
  have hlen := length_operand_padded b
  rw [← streamSlice_port, operandPort, portOfBytes, streamSlice_vecOfBytes (by rw [hlen])
    (hi.trans_eq hlen.symm), getElem_operand_padded]

/-- R86: an operand of eight bytes is driven as it stands. -/
theorem operandPort_eq_portOfBytes {b : List Byte} (hb : b.length = 8) :
    operandPort b = portOfBytes b := by
  rw [operandPort, List.take_left' hb]

end Ports

/-! ## Command lines (R86, R87) -/

section Lines

variable (m : Mode) {block key : List Byte}

/-- The line of a mode's mnemonic. -/
def commandLineOf : Mode → List Byte → List Byte → HostLine
  | .encrypt => .enc
  | .decrypt => .dec

theorem operandWellFormed_iff (b : List Byte) : operandWellFormed b = true ↔ b.length ≤ 15 := by
  rw [operandWellFormed, decide_eq_true_iff]
  exact Nat.lt_succ_iff

theorem commandLineOf_wellFormed :
    (commandLineOf m block key).wellFormed = (operandWellFormed block && operandWellFormed key) := by
  cases m <;> rfl

theorem assembleLine_commandLineOf (hb : operandWellFormed block = true)
    (hk : operandWellFormed key = true) :
    assembleLine (commandLineOf m block key) = some [.drive (commandPorts m block key)] := by
  have hwf : (commandLineOf m block key).wellFormed = true := by
    rw [commandLineOf_wellFormed, hb, hk, Bool.and_self]
  refine (if_pos hwf).trans ?_
  cases m <;> rfl

/-- R73: a line that is not well formed has no command word. -/
theorem assembleLine_eq_none {line : HostLine} (h : ¬line.wellFormed = true) :
    assembleLine line = none := if_neg h

/-- R73: a length of at most 15 fits its field. -/
theorem toNat_lenField {n : Nat} (hn : n ≤ 15) : (BitVec.ofNat 4 n : LenField).toNat = n :=
  Nat.mod_eq_of_lt (Nat.lt_succ_of_le hn)

end Lines

/-- Settles O56: a port is the bit string of its eight bytes. -/
theorem portCarriesBytesFirstByteHighest : Obligations.PortCarriesBytesFirstByteHighest := by
  refine ⟨fun p => ⟨length_bytesOfVec p, vecOfBytes_bytesOfVec p rfl, ?byte⟩,
    fun b hb => ⟨?back, toNat_vecOfBytes (by rw [hb]), ?bits⟩, ?half, ?keyReg⟩
  case byte =>
    intro m hm
    rw [bytesOfPort, getElem?_bytesOfVec p hm, streamSlice_port]
  case back =>
    have h := bytesOfVec_vecOfBytes (n := 64) (b := b) (by rw [hb])
    rwa [hb] at h
  case bits =>
    intro k hk
    rw [getElem?_bitsOfBytes_eq_getMsbD (by rw [hb]) hk]
    exact congrArg some (getLsbD_eq_getMsbD (portOfBytes b) hk).symm
  case half => exact fun l _ hk => getLsbD_eq_getMsbD l hk
  case keyReg => exact fun cd _ hk => getLsbD_eq_getMsbD cd hk

/-- Settles O38: the fields of the command word and the bytes of the two ports are read back; a line
is well formed exactly when both operands fit their length fields. -/
theorem commandLineDrivesThePorts : Obligations.CommandLineDrivesThePorts := by
  intro m block key line hline
  have hline : line = commandLineOf m block key := by
    cases m <;> exact hline
  subst hline
  refine ⟨fun hb hk => ⟨commandPorts m block key, ?assembled, rfl, rfl, ?mode, ?blen, ?klen, ?bytes⟩,
    fun hlong => ?long⟩
  case assembled =>
    exact assembleLine_commandLineOf m ((operandWellFormed_iff block).mpr hb)
      ((operandWellFormed_iff key).mpr hk)
  case mode => rw [commandPorts, commandWord_mode, Mode.ofBit_bit]
  case blen => rw [commandPorts, commandWord_blen, toNat_lenField hb]
  case klen => rw [commandPorts, commandWord_klen, toNat_lenField hk]
  case bytes => exact fun i hi => ⟨extractLsb'_operandPort block hi, extractLsb'_operandPort key hi⟩
  case long =>
    refine assembleLine_eq_none fun hwf => ?_
    rw [commandLineOf_wellFormed, Bool.and_eq_true, operandWellFormed_iff,
      operandWellFormed_iff] at hwf
    omega

end Sys2Proof.Machine

/-! # The word a step takes, and a word placed for it (spec/43_orchestrator.md R150, R158; log entry
8) -/

namespace Sys2Proof.Machine

/-! ## Which word a step takes -/

section Fetch

variable {s : State}

/-- A step that takes a word which decodes is the meaning of what it decodes to, then the host moves
on. -/
theorem stepBy_of_fetch {ex : Instr → State → Host.Outcome State Fault Refusal} {c : ControlWord}
    {i : Instr} (hf : s.fetch = .ok (some c)) (hd : decode c = .ok i) :
    stepBy ex s = mapNext State.advanceHost (ex i s) := by
  simp only [stepBy, hf, hd]

/-- R210: reset overrides everything. -/
theorem State.fetch_reset (hr : s.ports.rst = true) : s.fetch = .ok (some (.pin 1#1)) :=
  if_pos hr

/-- R150: without reset, a presented command. -/
theorem State.fetch_command (hr : s.ports.rst = false) (hs : s.ports.start = true) :
    s.fetch = .ok (some (.cmd s.ports.cmd)) := by
  simp [State.fetch, hr, hs]

/-- R158: with both strobes low in BUSY, the sequencer's own word. -/
theorem State.fetch_busy {m : Mode} (hr : s.ports.rst = false) (hs : s.ports.start = false)
    (hp : s.phase = .busy) (hm : s.mode = some m) :
    s.fetch = .ok (some (.seq (sequencerWord .busy m s.rc))) := by
  simp [State.fetch, hr, hs, hp, State.seqWord_of_mode hm]

/-- R153: where commands are taken, a command completes. -/
theorem commandStep_completes {T : Tables} {m : Mode} {blen klen : LenField}
    (hp : s.phase ≠ .busy) : ∃ t, commandStep T m blen klen s = .next t := by
  cases ha : sizeViolation blen klen with
  | none => exact ⟨_, commandStep_accepted hp ha⟩
  | some a => exact ⟨_, commandStep_refused hp ha⟩

end Fetch

/-! ## A placed word (log entry 8) -/

section PlacedWord

variable (s : State) (m : Mode) (rc : BitVec 5)

theorem State.placeWord_cmd_phase_ne_busy (w : BitVec 9) : (s.placeWord (.cmd w)).phase ≠ .busy := by
  simp only [State.placeWord]
  split
  · decide
  · assumption

theorem State.placeWord_seq_phase (p : Phase) :
    (s.placeWord (.seq (sequencerWord p m rc))).phase = p := by
  simp [State.placeWord]

theorem State.placeWord_seq_mode (p : Phase) :
    (s.placeWord (.seq (sequencerWord p m rc))).mode = some m := by
  simp [State.placeWord]

theorem State.placeWord_seq_rc (p : Phase) :
    (s.placeWord (.seq (sequencerWord p m rc))).rc = rc := by
  simp [State.placeWord]

theorem State.fetch_placeWord_busy :
    (s.placeWord (.seq (sequencerWord .busy m rc))).fetch =
      .ok (some (.seq (sequencerWord .busy m rc))) := by
  have hfetch := State.fetch_busy (s := s.placeWord (.seq (sequencerWord .busy m rc))) rfl rfl
    (State.placeWord_seq_phase ..) (State.placeWord_seq_mode ..)
  rwa [State.placeWord_seq_rc] at hfetch

/-- The encoding of an instruction is the word taken where it is placed. -/
theorem State.fetch_placeWord_encode (i : Instr) :
    (s.placeWord (encode i)).fetch = .ok (some (encode i)) := by
  cases i with
  | enc blen klen => exact State.fetch_command rfl rfl
  | dec blen klen => exact State.fetch_command rfl rfl
  | roundE rc => exact State.fetch_placeWord_busy s .encrypt rc
  | roundD rc => exact State.fetch_placeWord_busy s .decrypt rc
  | finish m => exact State.fetch_placeWord_busy s m 16#5
  | reset => exact State.fetch_reset rfl

/-- R154, R155: a placed word of a round finds the registers that select it, and its operands. -/
theorem roundStep_placeWord (hrc : rc.toNat < 16) :
    ∃ t, roundStep tables m rc (s.placeWord (.seq (sequencerWord .busy m rc))) = .next t := by
  have hstep := roundStep_selected (T := tables) (State.placeWord_seq_phase s m rc .busy)
    (State.placeWord_seq_mode s m rc .busy) (by rwa [State.placeWord_seq_rc])
  rw [State.placeWord_seq_rc] at hstep
  exact ⟨_, hstep⟩

/-- R157: so does a placed word of `FINISH`. -/
theorem finishStep_placeWord :
    ∃ t, finishStep tables (s.placeWord (.seq (sequencerWord .busy m 16#5))) = .next t :=
  ⟨_, finishStep_selected (State.placeWord_seq_phase ..)
    (congrArg BitVec.toNat (State.placeWord_seq_rc s m 16#5 .busy))⟩

/-- The operation of a placed word completes, from every state. -/
theorem exec_placeWord_encode_completes (i : Instr) (hi : i.wellFormed = true) :
    ∃ t, exec i (s.placeWord (encode i)) = .next t := by
  cases i with
  | enc blen klen => exact commandStep_completes (State.placeWord_cmd_phase_ne_busy s _)
  | dec blen klen => exact commandStep_completes (State.placeWord_cmd_phase_ne_busy s _)
  | roundE rc => exact roundStep_placeWord s .encrypt rc (of_decide_eq_true hi)
  | roundD rc => exact roundStep_placeWord s .decrypt rc (of_decide_eq_true hi)
  | finish m => exact finishStep_placeWord s m
  | reset => exact ⟨_, rfl⟩

end PlacedWord

/-- Bits of the opcode table that decode are the encoding of a well-formed instruction, and that is
the word placed. -/
theorem withFetchWord_of_decodeTableWord {nbits w : Nat} {i : Instr}
    (h : decodeTableWord nbits w = some i) :
    i.wellFormed = true ∧ ∀ s : State, s.withFetchWord nbits w = s.placeWord (encode i) := by
  rw [decodeTableWord] at h
  split at h
  · cases h
  · rename_i c hc
    split at h
    · rename_i j hj
      cases h
      obtain ⟨hencode, hwf⟩ := encode_of_decode hj
      exact ⟨hwf, fun s => by rw [State.withFetchWord, hc, hencode]⟩
    · cases h

/-- Settles O21: the placed word is an encoding, so it is the word taken, and its operation finds
what it needs. -/
theorem placedTableWordRunsNext : Obligations.PlacedTableWordRunsNext := by
  intro nbits w i h
  obtain ⟨hwf, hplaced⟩ := withFetchWord_of_decodeTableWord h
  have hstep : ∀ s : State, step (s.withFetchWord nbits w) =
      mapNext State.advanceHost (exec i (s.withFetchWord nbits w)) := fun s => by
    rw [hplaced]
    exact stepBy_of_fetch (State.fetch_placeWord_encode s i) (decode_encode i hwf)
  obtain ⟨t, ht⟩ := exec_placeWord_encode_completes State.reset i hwf
  refine ⟨hstep, t.advanceHost, ?_⟩
  rw [hstep, hplaced, ht, mapNext_next]

end Sys2Proof.Machine

/-! # From a command to DONE or ERROR (spec/43_orchestrator.md R158 to R160; spec/30_encoding.md
R86, R87) -/

namespace Sys2Proof.Machine

/-! ## Runs, step by step -/

section Runs

variable {T : Tables} {s t : State} {j : Nat}

theorem runWith_succ_of_next (h : stepWith T s = .next t) (k : Nat) :
    runWith T (k + 1) s = runWith T k t := by
  rw [runWith, h]

theorem runWith_one_of_next (h : stepWith T s = .next t) : runWith T 1 s = .next t :=
  runWith_succ_of_next h 0

/-- A run goes on where a shorter one ended. -/
theorem runWith_add_of_next (h : runWith T j s = .next t) (k : Nat) :
    runWith T (j + k) s = runWith T k t := by
  induction j generalizing s with
  | zero =>
    cases h
    rw [Nat.zero_add]
  | succ j ih =>
    rw [runWith] at h
    split at h
    · rename_i u hu
      rw [Nat.succ_add, runWith_succ_of_next hu, ih h]
    · cases h
    · cases h

/-- A run of one step more is the last step from where the shorter run ended. -/
theorem runWith_succ_of_run (h : runWith T j s = .next t) : runWith T (j + 1) s = runWith T 1 t :=
  runWith_add_of_next h 1

end Runs

/-! ## A transaction in BUSY (R158, R159) -/

/-- In BUSY, in mode `m`, after `k` rounds that led to the values `d`, with a host that leaves the
strobes low and then follows `plan`. -/
structure State.HoldsRound (s : State) (m : Mode) (k : Nat) (d : Datapath) (plan : List HostAction) :
    Prop where
  phase : s.phase = .busy
  mode : s.mode = some m
  rc : s.rc.toNat = k
  l : s.l = some d.l
  r : s.r = some d.r
  cd : s.cd = some d.cd
  result : s.result = none
  errcode : s.errcode = .none
  rst : s.ports.rst = false
  start : s.ports.start = false
  host : s.host = plan

section Transaction

variable {T : Tables} {s : State} {m : Mode} {k : Nat} {d : Datapath} {plan : List HostAction}

/-- The step of a round, as the writes of R156. -/
theorem stepWith_round_eq (h : s.HoldsRound m k d plan) (hk : k < 16) :
    stepWith T s = .next (s.feistelUpdate T d.l d.r (kstep T m k d.cd)).advanceHost := by
  have hrc : s.rc.toNat < 16 := h.rc ▸ hk
  have hexec : execWith T (roundOf m s.rc) s = roundStep T m s.rc s := by
    cases m <;> rfl
  rw [stepWith, stepBy_of_fetch (State.fetch_busy h.rst h.start h.phase h.mode)
    (decode_sequencerWord_round m s.rc hrc), hexec, roundStep_selected h.phase h.mode hrc, h.rc]
  simp only [withHalves, withKeyReg, h.l, h.r, h.cd, mapNext_next]

/-- R158, R159: a step with `RC` below 16 is the next round. -/
theorem stepWith_round (h : s.HoldsRound m k d plan) (hk : k < 16) (hplan : waitsForResult plan) :
    ∃ t, stepWith T s = .next t ∧ t.HoldsRound m (k + 1) (cipherRound T m k d) plan := by
  have hrc : s.rc.toNat < 16 := h.rc ▸ hk
  have hnext : hostNext s.phase s.ports s.host = (s.ports.release, plan) := by
    rw [h.phase, h.host, hostNext_waits hplan]
  exact ⟨_, stepWith_round_eq h hk,
    { phase := h.phase
      mode := h.mode
      rc := by simp [toNat_rc_succ hrc, h.rc]
      l := rfl
      r := rfl
      cd := rfl
      result := h.result
      errcode := h.errcode
      rst := by simp [hnext]
      start := by simp [hnext]
      host := by simp [hnext] }⟩

/-- R157, R158: a step with `RC` at 16 is `FINISH`. -/
theorem stepWith_finish (h : s.HoldsRound m 16 d plan) :
    stepWith T s = .next (s.finishWith T d.l d.r).advanceHost := by
  have hexec : execWith T (.finish m) s = finishStep T s := rfl
  rw [stepWith, stepBy_of_fetch (State.fetch_busy h.rst h.start h.phase h.mode)
    (decode_sequencerWord_finish m s.rc h.rc), hexec, finishStep_selected h.phase h.rc]
  simp only [withHalves, h.l, h.r, mapNext_next]

/-- R159: `k` steps from the first round are `k` rounds. -/
theorem runWith_rounds (h : s.HoldsRound m 0 d plan) (hplan : waitsForResult plan) (hk : k ≤ 16) :
    ∃ t, runWith T k s = .next t ∧ t.HoldsRound m k (cipherRounds T m d k) plan := by
  induction k with
  | zero => exact ⟨s, rfl, h⟩
  | succ k ih =>
    obtain ⟨t, hrun, ht⟩ := ih (by omega)
    obtain ⟨u, hstep, hu⟩ := stepWith_round (T := T) ht (by omega) hplan
    exact ⟨u, by rw [runWith_succ_of_run hrun, runWith_one_of_next hstep], hu⟩

end Transaction

/-! ## From the presented command on (R153, R159, R160) -/

section Command

variable {T : Tables} {s : State} {m : Mode} {blen klen : LenField} {k : Nat}

/-- R150: a presented command word is the command step of its fields. -/
theorem stepWith_commandWord (hr : s.ports.rst = false) (hs : s.ports.start = true)
    (hc : s.ports.cmd = commandWord m blen klen) :
    stepWith T s = mapNext State.advanceHost (commandStep T m blen klen s) := by
  rw [stepWith, stepBy_of_fetch (State.fetch_command hr hs) rfl, execWith_decodeCmd, hc,
    commandWord_mode, commandWord_blen, commandWord_klen, Mode.ofBit_bit]

/-- R153: an accepted command loads what `CIPHER` starts from. -/
theorem holdsRound_load (hhost : waitsForResult s.host) :
    (s.beginCommand.load T m).advanceHost.HoldsRound m 0 (cipherStart T s.ports.blockIn s.ports.keyIn)
      s.host := by
  have hnext := hostNext_waits hhost s.ports
  constructor <;> simp [hnext, cipherStart]

/-- R158, R159: an accepted command and the `k` steps after it are `CIPHER`'s start and `k` of its
rounds. -/
theorem runWith_accepted (hp : s.phase ≠ .busy) (hr : s.ports.rst = false)
    (hs : s.ports.start = true) (hc : s.ports.cmd = commandWord m 8#4 8#4)
    (hhost : waitsForResult s.host) (hk : k ≤ 16) :
    ∃ t, runWith T (k + 1) s = .next t ∧
      t.HoldsRound m k (cipherRounds T m (cipherStart T s.ports.blockIn s.ports.keyIn) k) s.host := by
  have hstep : stepWith T s = .next (s.beginCommand.load T m).advanceHost := by
    rw [stepWith_commandWord hr hs hc, commandStep_accepted hp (sizeViolation_eq_none.mpr ⟨rfl, rfl⟩),
      mapNext_next]
  rw [runWith_succ_of_next hstep]
  exact runWith_rounds (holdsRound_load hhost) hhost hk

/-- R159, R160: an accepted command ends after eighteen steps with the writes of `FINISH` on the
values after sixteen rounds. -/
theorem runWith_accepted_finish (hp : s.phase ≠ .busy) (hr : s.ports.rst = false)
    (hs : s.ports.start = true) (hc : s.ports.cmd = commandWord m 8#4 8#4)
    (hhost : waitsForResult s.host) :
    ∃ (t : State) (d : Datapath), t.HoldsRound m 16 d s.host ∧
      cipherFinish T d.l d.r = cipher T s.ports.blockIn s.ports.keyIn m ∧
      runWith T 18 s = .next (t.finishWith T d.l d.r).advanceHost := by
  obtain ⟨t, hrun, ht⟩ := runWith_accepted (T := T) hp hr hs hc hhost (Nat.le_refl 16)
  exact ⟨t, _, ht, rfl, by rw [runWith_succ_of_run hrun, runWith_one_of_next (stepWith_finish ht)]⟩

/-- R186, R160: a refused command ends after one step with the writes of error entry. -/
theorem runWith_refused (hp : s.phase ≠ .busy) (hr : s.ports.rst = false) (hs : s.ports.start = true)
    (hc : s.ports.cmd = commandWord m blen klen) (hlen : ¬(blen = 8#4 ∧ klen = 8#4)) :
    ∃ a, runWith T 1 s = .next (s.beginCommand.raiseSizeMismatch 8#4 a).advanceHost := by
  obtain ⟨a, ha⟩ := Option.ne_none_iff_exists'.mp (mt sizeViolation_eq_none.mp hlen)
  refine ⟨a, runWith_one_of_next ?_⟩
  rw [stepWith_commandWord hr hs hc, commandStep_refused hp ha, mapNext_next]

end Command

/-! ## RUN (R87) -/

section Run

variable {T : Tables} {s : State} (m : Mode) {block key : List Byte}

/-- The `RUN` line of a mode. -/
def runLineOf : Mode → List Byte → List Byte → HostLine
  | .encrypt => .runE
  | .decrypt => .runD

/-- What the host does in a `RUN`. -/
def runActions (m : Mode) (block key : List Byte) : List HostAction :=
  [.drive (commandPorts m block key), .wait]

theorem runLineOf_wellFormed :
    (runLineOf m block key).wellFormed = (operandWellFormed block && operandWellFormed key) := by
  cases m <;> rfl

theorem assembleLine_runLineOf (hwf : (runLineOf m block key).wellFormed = true) :
    assembleLine (runLineOf m block key) = some (runActions m block key) := by
  refine (if_pos hwf).trans ?_
  cases m <;> rfl

/-- R87: the command, then `WAIT`. -/
theorem assemble_command_wait (hb : operandWellFormed block = true)
    (hk : operandWellFormed key = true) :
    assemble [commandLineOf m block key, .wait] = some (runActions m block key) := by
  rw [assemble, assembleLine_commandLineOf m hb hk]
  rfl

/-- `WAIT` is over when `PHASE` is not BUSY, and leaves the strobes low. -/
theorem hostNext_wait_over {p : Phase} (hp : p ≠ .busy) (q : Ports) :
    hostNext p q [.wait] = (q.release, []) := by
  simp [hostNext, hp]

/-- R73: a declared length is 8 exactly when the operand has eight bytes. -/
theorem lenField_eq_eight_iff {n : Nat} (hn : n ≤ 15) : BitVec.ofNat 4 n = 8#4 ↔ n = 8 := by
  rw [← BitVec.toNat_inj, toNat_lenField hn]
  rfl

/-- R87, R159: a `RUN` of two 8-byte operands ends in DONE with `CIPHER` of them. -/
theorem runWith_runActions_accepted (hp : s.phase ≠ .busy) (hb : block.length = 8)
    (hk : key.length = 8) :
    ∃ t, runWith T 18 (s.withScript (runActions m block key)) = .next t ∧ t.phase = .done ∧
      t.host = [] ∧ t.ports.start = false ∧
      t.result = some (cipher T (portOfBytes block) (portOfBytes key) m) := by
  have hc : commandWord m (BitVec.ofNat 4 block.length) (BitVec.ofNat 4 key.length) =
      commandWord m 8#4 8#4 := by rw [hb, hk]
  obtain ⟨t, d, ht, hd, hrun⟩ := runWith_accepted_finish (T := T)
    (s := s.withScript (runActions m block key)) hp rfl rfl hc (.inr rfl)
  have hhost : t.host = [.wait] := ht.host
  have hover := hostNext_wait_over (p := .done) (by decide) t.ports
  refine ⟨_, hrun, rfl, by simp [hhost, hover], by simp [hhost, hover], ?_⟩
  rw [← operandPort_eq_portOfBytes hb, ← operandPort_eq_portOfBytes hk]
  exact congrArg some hd

/-- R87, R186: any other `RUN` ends in ERROR at once. -/
theorem runWith_runActions_refused (hp : s.phase ≠ .busy) (hb : block.length ≤ 15)
    (hk : key.length ≤ 15) (hlen : ¬(block.length = 8 ∧ key.length = 8)) :
    ∃ t, runWith T 1 (s.withScript (runActions m block key)) = .next t ∧ t.phase = .error ∧
      t.host = [] ∧ t.ports.start = false := by
  rw [← lenField_eq_eight_iff hb, ← lenField_eq_eight_iff hk] at hlen
  obtain ⟨a, hrun⟩ := runWith_refused (T := T) (s := s.withScript (runActions m block key)) (m := m)
    hp rfl rfl rfl hlen
  exact ⟨_, hrun, rfl, rfl, rfl⟩

end Run

/-- Settles O37: the driven command is accepted, and ends in DONE after eighteen steps with `CIPHER`
of the operands, exactly when both have eight bytes; otherwise it is refused in its first step. -/
theorem runEndsInDoneOrError : Obligations.RunEndsInDoneOrError := by
  intro s m block key run command hp hrun hcommand hwf
  have hrun : run = runLineOf m block key := by
    cases m <;> exact hrun
  have hcommand : command = commandLineOf m block key := by
    cases m <;> exact hcommand
  subst hrun hcommand
  obtain ⟨hb, hk⟩ := Bool.and_eq_true_iff.mp (runLineOf_wellFormed m ▸ hwf)
  refine ⟨runActions m block key, assembleLine_runLineOf m hwf, assemble_command_wait m hb hk, ?_⟩
  have hcore : ∀ k u, Sys2Proof.core.run k u = runWith tables k u := runIsTheRunOverTheMachinesTables
  by_cases hlen : block.length = 8 ∧ key.length = 8
  · obtain ⟨t, ht, hdone, hhost, hstart, hresult⟩ :=
      runWith_runActions_accepted (T := tables) m hp hlen.1 hlen.2
    exact ⟨18, t, Nat.le_refl 18, (hcore ..).trans ht, .inl hdone, hhost, hstart,
      fun _ _ => ⟨hdone, hresult⟩⟩
  · obtain ⟨t, ht, herror, hhost, hstart⟩ := runWith_runActions_refused (T := tables) m hp
      ((operandWellFormed_iff block).mp hb) ((operandWellFormed_iff key).mp hk) hlen
    exact ⟨1, t, by decide, (hcore ..).trans ht, .inr herror, hhost, hstart,
      fun hb8 hk8 => absurd ⟨hb8, hk8⟩ hlen⟩

end Sys2Proof.Machine

/-! # The bit-permutation primitive, the XOR mixer and the byte utilities
(spec/40_bit_primitives.md R90 to R96) -/

namespace Sys2Proof.Machine

/-! ## PERMUTE as wiring (R94, R96) -/

section Wiring

variable {src out i q : Nat} {t : List Nat}

/-- R94: an output bit is the source bit its table entry names. -/
theorem getMsbD_permuteNet_of_getElem? (s : BitVec src) (hlen : t.length = out) (hq : t[i]? = some q) :
    (permuteNet out s t).getMsbD i = s.getMsbD (q - 1) := by
  rw [getMsbD_permuteNet s t hlen, List.getD_eq_getElem?_getD, List.getElem?_map, hq]
  rfl

/-- R94: the identity table. -/
theorem permuteNet_identity (s : BitVec src) :
    permuteNet src s ((List.range src).map (· + 1)) = s := by
  apply BitVec.eq_of_getMsbD_eq
  intro i hi
  have hentry : ((List.range src).map (· + 1))[i]? = some (i + 1) := by simp [hi]
  rw [getMsbD_permuteNet_of_getElem? s (by simp) hentry, Nat.add_sub_cancel]

/-- R43 (2) as a statement about the entries. -/
theorem positionsWithin_iff (t : List Nat) (bits : Nat) :
    Tables.positionsWithin t bits = true ↔ ∀ q ∈ t, 1 ≤ q ∧ q ≤ bits := by
  simp [Tables.positionsWithin]

/-- R96: a network whose table has an entry within its source for every output is wiring. -/
theorem permuteNet_wiring (s : BitVec src) (hlen : t.length = out)
    (hpos : Tables.positionsWithin t src = true) (hi : i < out) :
    ∃ q, t[i]? = some q ∧ 1 ≤ q ∧ q ≤ src ∧ (permuteNet out s t).getMsbD i = s.getMsbD (q - 1) := by
  have hit : i < t.length := hlen ▸ hi
  obtain ⟨hge, hle⟩ := (positionsWithin_iff t src).mp hpos t[i] (List.getElem_mem hit)
  have hq : t[i]? = some t[i] := List.getElem?_eq_getElem hit
  exact ⟨t[i], hq, hge, hle, getMsbD_permuteNet_of_getElem? s hlen hq⟩

/-- R43 (1) as a statement about the six lengths. -/
theorem lengthsOk_iff (T : Tables) :
    T.lengthsOk = true ↔ T.ip.length = 64 ∧ T.fp.length = 64 ∧ T.pc1.length = 56 ∧
      T.pc2.length = 48 ∧ T.e.length = 48 ∧ T.p.length = 32 := by
  simp [Tables.lengthsOk, and_assoc]

/-- R43 (2), table by table. -/
theorem rangesOk_iff (T : Tables) :
    T.rangesOk = true ↔ Tables.positionsWithin T.ip 64 = true ∧ Tables.positionsWithin T.fp 64 = true ∧
      Tables.positionsWithin T.pc1 64 = true ∧ Tables.positionsWithin T.pc2 56 = true ∧
      Tables.positionsWithin T.e 32 = true ∧ Tables.positionsWithin T.p 32 = true := by
  simp only [Tables.rangesOk, Bool.and_eq_true, and_assoc]

end Wiring

/-- Settles O47: each output wire by its table entry; a string of no bits is the empty one. -/
theorem permuteWiresEachOutputBit : Obligations.PermuteWiresEachOutputBit :=
  ⟨fun _ _ s _ _ _ => getMsbD_permuteNet_of_getElem? s, fun _ _ => BitVec.eq_nil _,
    fun _ => permuteNet_identity⟩

/-- Settles O48: each network is `PERMUTE` under a table of as many entries as it has outputs, all of
them positions of its source. -/
theorem sixNetworksAreWiring : Obligations.SixNetworksAreWiring := by
  intro T hlengths hranges
  obtain ⟨lip, lfp, lpc1, lpc2, le, lp⟩ := (lengthsOk_iff T).mp hlengths
  obtain ⟨rip, rfp, rpc1, rpc2, re, rp⟩ := (rangesOk_iff T).mp hranges
  exact ⟨fun b _ => permuteNet_wiring b lip rip, fun b _ => permuteNet_wiring b lfp rfp,
    fun k _ => permuteNet_wiring k lpc1 rpc1, fun cd _ => permuteNet_wiring cd lpc2 rpc2,
    fun r _ => permuteNet_wiring r le re, fun y _ => permuteNet_wiring y lp rp⟩

/-! ## Bits and bytes (R13) -/

theorem bitsOfBytes_cons (x : Byte) (b : List Byte) :
    bitsOfBytes (x :: b) = (List.range 8).map x.getMsbD ++ bitsOfBytes b :=
  List.flatMap_cons

/-- A bit string is the stream bits of the word it makes. -/
theorem map_getMsbD_ofBoolListBE (s : List Bool) :
    (List.range s.length).map (BitVec.ofBoolListBE s).getMsbD = s := by
  apply List.ext_getElem (by simp)
  intro i _ hi
  rw [List.getElem_map, List.getElem_range, BitVec.getMsbD_ofBoolListBE, List.getD_eq_getElem _ _ hi]

/-- A bit string of whole bytes is the bit string of its bytes. -/
theorem bitsOfBytes_bytesOfBits (s : List Bool) (h : s.length % 8 = 0) :
    bitsOfBytes (bytesOfBits s) = s := by
  induction s using bytesOfBits.induct with
  | case1 b0 b1 b2 b3 b4 b5 b6 b7 rest ih =>
    have hbyte := map_getMsbD_ofBoolListBE [b0, b1, b2, b3, b4, b5, b6, b7]
    have hrest : rest.length % 8 = 0 := by simp only [List.length_cons] at h; omega
    rw [bytesOfBits, bitsOfBytes_cons, ih hrest]
    exact congrArg (· ++ rest) hbyte
  | case2 s hshort =>
    match s, h with
    | [], _ => rfl
    | b0 :: b1 :: b2 :: b3 :: b4 :: b5 :: b6 :: b7 :: rest, _ =>
      exact (hshort _ _ _ _ _ _ _ _ _ rfl).elim

theorem length_bitsOfBytes (b : List Byte) : (bitsOfBytes b).length = 8 * b.length := by
  simp [bitsOfBytes, List.length_flatMap, Nat.mul_comm]

/-- R13: stream bit `k` is bit `k mod 8` of byte `k div 8`. -/
theorem getD_bitsOfBytes (b : List Byte) (k : Nat) :
    (bitsOfBytes b).getD k false = (b.getD (k / 8) 0#8).getMsbD (k % 8) := by
  have hk := getElem?_bitsOfBytes b (k / 8) (Nat.mod_lt k (by decide : 0 < 8))
  rw [Nat.div_add_mod] at hk
  rw [List.getD_eq_getElem?_getD, hk, List.getD_eq_getElem?_getD]
  cases b[k / 8]? <;> simp

theorem getElem?_bitsOfBytes_eq_getD {b : List Byte} {k : Nat} (hk : k < 8 * b.length) :
    (bitsOfBytes b)[k]? = some ((bitsOfBytes b).getD k false) := by
  rw [← length_bitsOfBytes] at hk
  rw [List.getElem?_eq_getElem hk, List.getD_eq_getElem _ _ hk]

/-! ## PERMUTE on byte sequences (R95) -/

section BytePermute

variable {b : List Byte} {t : List Nat}

theorem length_permuteList (s : List Bool) (t : List Nat) : (permuteList s t).length = t.length :=
  List.length_map ..

theorem permuteBytes_entryZero (h0 : 0 ∈ t) : permuteBytes b t = .refused .entryZero :=
  if_pos (by simpa using h0)

/-- R95: past the check for an entry 0. -/
theorem permuteBytes_of_noZero (h0 : 0 ∉ t) :
    permuteBytes b t =
      if t.any (fun q => 8 * b.length < q) then
        .error (.rangeError (t.foldl max 0) (8 * b.length))
      else if t.length % 8 ≠ 0 then .refused .partialByteTable
      else .result (bytesOfBits (permuteList (bitsOfBytes b) t)) :=
  if_neg (by simpa using h0)

theorem permuteBytes_rangeError (h0 : 0 ∉ t) (hpast : ∃ q ∈ t, 8 * b.length < q) :
    permuteBytes b t = .error (.rangeError (t.foldl max 0) (8 * b.length)) :=
  (permuteBytes_of_noZero h0).trans (if_pos (by simpa using hpast))

/-- R95: past both checks of the entries. -/
theorem permuteBytes_of_inRange (h : ∀ q ∈ t, 1 ≤ q ∧ q ≤ 8 * b.length) :
    permuteBytes b t =
      if t.length % 8 ≠ 0 then .refused .partialByteTable
      else .result (bytesOfBits (permuteList (bitsOfBytes b) t)) := by
  have h0 : 0 ∉ t := fun hmem => absurd (h 0 hmem).1 (by decide)
  have hpast : ¬∃ q ∈ t, 8 * b.length < q := fun ⟨q, hq, hlt⟩ => absurd (h q hq).2 (by omega)
  exact (permuteBytes_of_noZero h0).trans (if_neg (by simpa using hpast))

/-- R183: what the fold finds in a table that is not empty is its largest entry. -/
theorem foldl_max_zero_greatest (ht : t ≠ []) : t.foldl max 0 ∈ t ∧ ∀ q ∈ t, q ≤ t.foldl max 0 := by
  obtain ⟨m, hm⟩ := Option.isSome_iff_exists.mp (List.isSome_max?_of_ne_nil ht)
  have hfold : t.foldl max 0 = m := by simp [List.foldl_max, hm]
  rw [hfold]
  exact List.max?_eq_some_iff.mp hm

end BytePermute

/-- Settles O49, in the order of the checks; whole bytes of bits lose nothing when they are packed. -/
theorem bytePermuteChecksThenPermutes : Obligations.BytePermuteChecksThenPermutes := by
  intro b t
  refine ⟨permuteBytes_entryZero, ?range, ?partialByte, ?result⟩
  case range =>
    intro h0 hpast
    obtain ⟨q, hq, hlt⟩ := hpast
    obtain ⟨hmem, hmax⟩ := foldl_max_zero_greatest (List.ne_nil_of_mem hq)
    exact ⟨_, hmem, hmax, permuteBytes_rangeError h0 ⟨q, hq, hlt⟩⟩
  case partialByte =>
    intro hin hlen
    rw [permuteBytes_of_inRange hin, if_pos hlen]
  case result =>
    intro hin hlen
    have hbits : bitsOfBytes (bytesOfBits (permuteList (bitsOfBytes b) t)) =
        permuteList (bitsOfBytes b) t :=
      bitsOfBytes_bytesOfBits _ (by rw [length_permuteList, hlen])
    refine ⟨_, by rw [permuteBytes_of_inRange hin, if_neg (not_not.mpr hlen)], ?_, hbits⟩
    have hlength := congrArg List.length hbits
    rw [length_bitsOfBytes, length_permuteList] at hlength
    omega

/-! ## The XOR mixer (R93) -/

section Xor

variable {a b : List Byte}

theorem xorBytes_of_length_eq (h : a.length = b.length) :
    xorBytes a b = .result (List.zipWith (· ^^^ ·) a b) :=
  if_pos h

theorem xorBytes_of_length_ne (h : a.length ≠ b.length) :
    xorBytes a b = .error (.lengthMismatch a.length b.length) :=
  if_neg h

theorem length_zipWith_xor (h : a.length = b.length) :
    (List.zipWith (· ^^^ ·) a b).length = a.length := by
  rw [List.length_zipWith, h, Nat.min_self]

/-- R93: byte by byte is bit by bit. -/
theorem getD_bitsOfBytes_zipWith_xor (h : a.length = b.length) (k : Nat) :
    (bitsOfBytes (List.zipWith (· ^^^ ·) a b)).getD k false =
      ((bitsOfBytes a).getD k false ^^ (bitsOfBytes b).getD k false) := by
  have hbyte : (List.zipWith (· ^^^ ·) a b).getD (k / 8) 0#8 =
      a.getD (k / 8) 0#8 ^^^ b.getD (k / 8) 0#8 := by
    by_cases hk : k / 8 < a.length <;> simp [List.getD_eq_getElem?_getD, hk, h ▸ hk]
  rw [getD_bitsOfBytes, getD_bitsOfBytes, getD_bitsOfBytes, hbyte, BitVec.getMsbD_xor]

theorem zipWith_xor_self (a : List Byte) :
    List.zipWith (· ^^^ ·) a a = List.replicate a.length 0#8 := by
  simp [List.zipWith_self]

theorem zipWith_xor_zeros (a : List Byte) :
    List.zipWith (· ^^^ ·) a (List.replicate a.length 0#8) = a := by
  induction a with
  | nil => rfl
  | cons x a ih => simpa [List.replicate_succ] using ih

end Xor

/-- Settles O50: the mixer is the exclusive or of the bytes, and so of their bits. -/
theorem xorChecksLengths : Obligations.XorChecksLengths := by
  intro a b
  refine ⟨xorBytes_of_length_ne, fun h => ?bits, ?self, ?zeros⟩
  case bits =>
    have hlen := length_zipWith_xor h
    refine ⟨_, xorBytes_of_length_eq h, hlen, fun k hk => ?_⟩
    rw [getElem?_bitsOfBytes_eq_getD (hlen ▸ hk), getD_bitsOfBytes_zipWith_xor h]
  case self => rw [xorBytes_of_length_eq rfl, zipWith_xor_self]
  case zeros => rw [xorBytes_of_length_eq List.length_replicate.symm, zipWith_xor_zeros]

/-! ## The single-bit utilities (R90 to R92) -/

section SingleBits

variable {b : List Byte} {k m : Nat}

theorem getBit_of_lt (hk : k < 8 * b.length) :
    getBit b k = .result ((b.getD (k / 8) 0#8 >>> (7 - k % 8)).setWidth 1) :=
  if_pos hk

theorem setBit_of_lt (hk : k < 8 * b.length) :
    setBit b k = .result (b.set (k / 8) (b.getD (k / 8) 0#8 ||| 128#8 >>> (k % 8))) :=
  if_pos hk

theorem clrBit_of_lt (hk : k < 8 * b.length) :
    clrBit b k = .result (b.set (k / 8) (b.getD (k / 8) 0#8 &&& ~~~(128#8 >>> (k % 8)))) :=
  if_pos hk

/-- R90: the shift brings stream bit `i` to the lowest place. -/
theorem setWidth_ushiftRight_eq_ofBool (x : Byte) {i : Nat} (hi : i < 8) :
    (x >>> (7 - i)).setWidth 1 = BitVec.ofBool (x.getMsbD i) := by
  apply BitVec.eq_of_getLsbD_eq
  intro j hj
  obtain rfl : j = 0 := by omega
  simp [BitVec.getMsbD, hi]

/-- R91, R92: the mask of stream bit `i` of a byte. -/
theorem getMsbD_bitMask (i : Nat) {n : Nat} (hn : n < 8) :
    (128#8 >>> i).getMsbD n = decide (n = i) := by
  have hmask : 128#8 = BitVec.twoPow 8 7 := rfl
  rw [hmask, BitVec.getMsbD_ushiftRight, BitVec.getMsbD_twoPow, Bool.eq_iff_iff]
  simp only [hn, true_and, Bool.and_eq_true, Bool.not_eq_true', decide_eq_true_eq,
    decide_eq_false_iff_not]
  omega

/-- R91, R92: a byte that differs in stream bit `k mod 8` alone, put in place of byte `k div 8`, changes
stream bit `k` alone. -/
theorem getElem?_bitsOfBytes_set {y : Byte} {v : Bool} (hk : k < 8 * b.length)
    (hy : ∀ n, n < 8 → y.getMsbD n = if n = k % 8 then v else (b.getD (k / 8) 0#8).getMsbD n)
    (hm : m < 8 * b.length) :
    (bitsOfBytes (b.set (k / 8) y))[m]? = some (if m = k then v else (bitsOfBytes b).getD m false) := by
  rw [getElem?_bitsOfBytes_eq_getD (by rwa [List.length_set]), getD_bitsOfBytes, getD_bitsOfBytes]
  by_cases hbyte : m / 8 = k / 8
  · have hmk : m = k ↔ m % 8 = k % 8 := by omega
    have hset : (b.set (k / 8) y).getD (k / 8) 0#8 = y := by
      simp [List.getD_eq_getElem?_getD, (by omega : k / 8 < b.length)]
    rw [hbyte, hset, hy _ (Nat.mod_lt m (by decide)), if_congr hmk rfl rfl]
  · have hmk : m ≠ k := fun h => hbyte (h ▸ rfl)
    have hset : (b.set (k / 8) y).getD (m / 8) 0#8 = b.getD (m / 8) 0#8 := by
      simp [List.getD_eq_getElem?_getD, Ne.symm hbyte]
    rw [hset, if_neg hmk]

end SingleBits

/-- Settles O51: `SETBIT` and `CLRBIT` replace one byte by one that differs in one bit. -/
theorem bitUtilitiesAddressOneBit : Obligations.BitUtilitiesAddressOneBit := by
  intro b k
  refine ⟨fun hk => ?pastEnd, fun hk => ⟨?get, ?set, ?clear⟩⟩
  case pastEnd =>
    have hk := Nat.not_lt.mpr hk
    exact ⟨if_neg hk, if_neg hk, if_neg hk⟩
  case get =>
    rw [getBit_of_lt hk, setWidth_ushiftRight_eq_ofBool _ (Nat.mod_lt k (by decide)), getD_bitsOfBytes]
  case set =>
    refine ⟨_, setBit_of_lt hk, List.length_set, fun m hm => ?_⟩
    rw [getElem?_bitsOfBytes_set (v := true) hk ?_ hm]
    · by_cases h : m = k <;> simp [h]
    · intro n hn
      rw [BitVec.getMsbD_or, getMsbD_bitMask _ hn]
      by_cases h : n = k % 8 <;> simp [h]
  case clear =>
    refine ⟨_, clrBit_of_lt hk, List.length_set, fun m hm => ?_⟩
    rw [getElem?_bitsOfBytes_set (v := false) hk ?_ hm]
    · by_cases h : m = k <;> simp [h]
    · intro n hn
      rw [BitVec.getMsbD_and, BitVec.getMsbD_not, getMsbD_bitMask _ hn]
      by_cases h : n = k % 8 <;> simp [h, hn]

end Sys2Proof.Machine

/-! # The key schedule (spec/41_key_schedule.md R110 to R123) -/

namespace Sys2Proof.Machine

/-! ## One half of the key register -/

section HalfKey

variable {w n k : Nat}

theorem rotateLeft_zero (x : BitVec w) : x.rotateLeft 0 = x := by
  simp [BitVec.rotateLeft_def, BitVec.ushiftRight_eq_zero]

/-- A bit string rotated by `n` places and then by one more. -/
theorem rotateLeft_rotateLeft_one (x : BitVec w) :
    (x.rotateLeft n).rotateLeft 1 = x.rotateLeft (n + 1) := by
  apply BitVec.eq_of_getMsbD_eq
  intro i hi
  have hpos : (n + (1 + i) % w) % w = (n + 1 + i) % w := by rw [Nat.add_mod_mod, Nat.add_assoc]
  have hw : (1 + i) % w < w := Nat.mod_lt _ (Nat.zero_lt_of_lt hi)
  simp [BitVec.getMsbD_rotateLeft, hi, hw, hpos]

theorem rotateRight_rotateLeft_one (x : HalfKey) : (x.rotateLeft 1).rotateRight 1 = x := by
  apply BitVec.eq_of_getMsbD_eq
  intro i hi
  rw [BitVec.getMsbD_rotateRight]
  cases i with
  | zero => simp [BitVec.getMsbD_rotateLeft]
  | succ i =>
    have hpos : (1 + i) % 28 = i + 1 := by omega
    have hi' : i < 28 := by omega
    simp [BitVec.getMsbD_rotateLeft, hi, hi', hpos]

/-- R112, as bits: a half rotated by `n` places. -/
theorem getMsbD_rotateLeft_half (x : HalfKey) (hk : k < 28) :
    (x.rotateLeft n).getMsbD k = x.getMsbD ((k + n) % 28) := by
  simp [BitVec.getMsbD_rotateLeft, hk, Nat.add_comm]

/-- R112, as numbers. -/
theorem toNat_rotateLeft_one (x : HalfKey) :
    (x.rotateLeft 1).toNat = (x.toNat <<< 1 ||| x.toNat >>> 27) % 2 ^ 28 := by
  have hlow : x.toNat >>> 27 < 2 ^ 28 := (Nat.shiftRight_le ..).trans_lt x.isLt
  rw [Nat.or_mod_two_pow, Nat.mod_eq_of_lt hlow, BitVec.toNat_rotateLeft]

/-- R113, as numbers. -/
theorem toNat_rotateRight_one (x : HalfKey) :
    (x.rotateRight 1).toNat = (x.toNat >>> 1 ||| (x.toNat &&& 1) <<< 27) := by
  have hhigh : x.toNat <<< 27 % 2 ^ 28 = (x.toNat &&& 1) <<< 27 := by
    rw [Nat.and_one_is_mod, Nat.shiftLeft_eq, Nat.shiftLeft_eq]
    omega
  rw [BitVec.toNat_rotateRight, ← hhigh]

/-- R112, R113: a half of equal bits does not change. -/
theorem rotate_one_of_equal_bits :
    ∀ x ∈ [0#28, BitVec.allOnes 28], x.rotateLeft 1 = x ∧ x.rotateRight 1 = x := by
  intro x hx
  obtain rfl | rfl : x = 0#28 ∨ x = BitVec.allOnes 28 := by simpa using hx
  · decide
  · decide

end HalfKey

/-! ## The register of two halves -/

section Rotation

variable (cd : KeyReg) {n k m : Nat}

@[simp] theorem cHalf_rol1 : cHalf (rol1 cd) = (cHalf cd).rotateLeft 1 := cHalf_append ..
@[simp] theorem dHalf_rol1 : dHalf (rol1 cd) = (dHalf cd).rotateLeft 1 := dHalf_append ..
@[simp] theorem cHalf_ror1 : cHalf (ror1 cd) = (cHalf cd).rotateRight 1 := cHalf_append ..
@[simp] theorem dHalf_ror1 : dHalf (ror1 cd) = (dHalf cd).rotateRight 1 := dHalf_append ..

@[simp] theorem rotL_zero : rotL cd 0 = cd := rfl
@[simp] theorem rotR_zero : rotR cd 0 = cd := rfl
theorem rotL_succ : rotL cd (n + 1) = rol1 (rotL cd n) := rfl
theorem rotR_succ : rotR cd (n + 1) = ror1 (rotR cd n) := rfl
theorem rotL_one : rotL cd 1 = rol1 cd := rfl
theorem rotR_one : rotR cd 1 = ror1 cd := rfl

/-- R112: `ROR1` undoes `ROL1`. -/
@[simp] theorem ror1_rol1 : ror1 (rol1 cd) = cd := by
  rw [ror1, cHalf_rol1, dHalf_rol1, rotateRight_rotateLeft_one, rotateRight_rotateLeft_one,
    cHalf_append_dHalf]

/-- R115: `n` one-bit rotations rotate each half by `n` places. -/
theorem rotL_eq_append : rotL cd n = (cHalf cd).rotateLeft n ++ (dHalf cd).rotateLeft n := by
  induction n with
  | zero => rw [rotL_zero, rotateLeft_zero, rotateLeft_zero, cHalf_append_dHalf]
  | succ n ih =>
    rw [rotL_succ, ih, rol1, cHalf_append, dHalf_append, rotateLeft_rotateLeft_one,
      rotateLeft_rotateLeft_one]

/-- R115, as bits of each half. -/
theorem getMsbD_halves_rotL (hk : k < 28) :
    (cHalf (rotL cd n)).getMsbD k = (cHalf cd).getMsbD ((k + n) % 28) ∧
      (dHalf (rotL cd n)).getMsbD k = (dHalf cd).getMsbD ((k + n) % 28) := by
  rw [rotL_eq_append, cHalf_append, dHalf_append]
  exact ⟨getMsbD_rotateLeft_half _ hk, getMsbD_rotateLeft_half _ hk⟩

/-- R111: the bits of the register are those of its first half and then those of its second. -/
theorem getMsbD_keyReg :
    cd.getMsbD k = if 28 ≤ k then (dHalf cd).getMsbD (k - 28) else (cHalf cd).getMsbD k := by
  rw [← BitVec.getMsbD_append, cHalf_append_dHalf]

/-- R112, as bits of the whole register: a bit moves within the 28 places of its half. -/
theorem getMsbD_rotL (hk : k < 56) :
    (rotL cd n).getMsbD k = cd.getMsbD (k / 28 * 28 + (k % 28 + n) % 28) := by
  rw [getMsbD_keyReg, getMsbD_keyReg cd]
  by_cases hd : 28 ≤ k
  · have hsrc : k / 28 * 28 + (k % 28 + n) % 28 = 28 + (k - 28 + n) % 28 := by omega
    obtain ⟨-, hbit⟩ := getMsbD_halves_rotL cd (n := n) (by omega : k - 28 < 28)
    rw [if_pos hd, hbit, hsrc, if_pos (Nat.le_add_right ..), Nat.add_sub_cancel_left]
  · have hsrc : k / 28 * 28 + (k % 28 + n) % 28 = (k + n) % 28 := by omega
    obtain ⟨hbit, -⟩ := getMsbD_halves_rotL cd (n := n) (by omega : k < 28)
    rw [if_neg hd, hbit, hsrc, if_neg (by omega)]

/-- R112: 28 one-bit rotations are the identity. -/
@[simp] theorem rotL_full_turn : rotL cd 28 = cd := by
  apply BitVec.eq_of_getMsbD_eq
  intro k hk
  rw [getMsbD_rotL cd hk]
  congr 1
  omega

/-- R115: rotating right takes back the last of the rotations to the left. -/
theorem rotR_rotL (n k : Nat) : rotR (rotL cd (k + n)) n = rotL cd k := by
  induction n generalizing k with
  | zero => rfl
  | succ n ih => rw [rotR_succ, Nat.add_comm n, ← Nat.add_assoc, ih, rotL_succ, ror1_rol1]

/-- R119: up to a whole turn, rotating right is rotating left by what is left of the turn. -/
theorem rotR_eq_rotL (hn : n ≤ 28) : rotR cd n = rotL cd (28 - n) := by
  rw [← rotR_rotL cd n (28 - n), Nat.sub_add_cancel hn, rotL_full_turn]

/-- R113: `ROL1` undoes `ROR1`. -/
@[simp] theorem rol1_ror1 : rol1 (ror1 cd) = cd := by
  rw [← rotR_one, rotR_eq_rotL cd (by decide), ← rotL_succ, rotL_full_turn]

theorem rotL_rotL : rotL (rotL cd m) n = rotL cd (m + n) := by
  induction n with
  | zero => rfl
  | succ n ih => rw [rotL_succ, ih, ← Nat.add_assoc, rotL_succ]

theorem rotR_rotR : rotR (rotR cd m) n = rotR cd (m + n) := by
  induction n with
  | zero => rfl
  | succ n ih => rw [rotR_succ, ih, ← Nat.add_assoc, rotR_succ]

end Rotation

/-- Settles O39: `ROL1` is rotation to the left by one place, whose bits, inverse and period are known. -/
theorem rotateLeftByOne : Obligations.RotateLeftByOne := by
  intro cd
  refine ⟨fun k hk => ?halves, fun k hk => ?inner, ?cLast, ?dLast, ?cNumber, ?dNumber,
    fun x hx => ?equalBits, rotL_full_turn cd, ror1_rol1 cd⟩
  case halves => exact getMsbD_halves_rotL cd (n := 1) hk
  case inner =>
    have hsrc : k / 28 * 28 + (k % 28 + 1) % 28 = k + 1 := by omega
    rw [← rotL_one, getMsbD_rotL cd (by omega), hsrc]
  case cLast => rw [← rotL_one, getMsbD_rotL cd (by decide)]
  case dLast => rw [← rotL_one, getMsbD_rotL cd (by decide)]
  case cNumber => rw [cHalf_rol1, toNat_rotateLeft_one]
  case dNumber => rw [dHalf_rol1, toNat_rotateLeft_one]
  case equalBits =>
    obtain ⟨hrot, -⟩ := rotate_one_of_equal_bits x hx
    exact ⟨fun hc => by rw [cHalf_rol1, hc, hrot], fun hd => by rw [dHalf_rol1, hd, hrot]⟩

/-- Settles O40: for bits, `ROR1` is rotation to the left by 27 places. -/
theorem rotateRightByOne : Obligations.RotateRightByOne := by
  intro cd
  have hror : ror1 cd = rotL cd 27 := rotR_eq_rotL cd (n := 1) (by decide)
  refine ⟨fun k hk => ?halves, fun k hk => ?inner, ?cFirst, ?dFirst, ?cNumber, ?dNumber,
    fun x hx => ?equalBits, rotR_eq_rotL cd le_rfl, rol1_ror1 cd⟩
  case halves => rw [hror]; exact getMsbD_halves_rotL cd hk
  case inner =>
    have hsrc : k / 28 * 28 + (k % 28 + 27) % 28 = k - 1 := by omega
    rw [hror, getMsbD_rotL cd (by omega), hsrc]
  case cFirst => rw [hror, getMsbD_rotL cd (by decide)]
  case dFirst => rw [hror, getMsbD_rotL cd (by decide)]
  case cNumber => rw [cHalf_ror1, toNat_rotateRight_one]
  case dNumber => rw [dHalf_ror1, toNat_rotateRight_one]
  case equalBits =>
    obtain ⟨-, hrot⟩ := rotate_one_of_equal_bits x hx
    exact ⟨fun hc => by rw [cHalf_ror1, hc, hrot], fun hd => by rw [dHalf_ror1, hd, hrot]⟩

/-- Settles O42: rotating right by `n` places is rotating left by `28 - n`. -/
theorem rotateByOneOrTwo : Obligations.RotateByOneOrTwo := by
  intro cd n k hn hk
  have hle : n ≤ 28 := by omega
  obtain ⟨hcL, hdL⟩ := getMsbD_halves_rotL cd (n := n) hk
  obtain ⟨hcR, hdR⟩ := getMsbD_halves_rotL cd (n := 28 - n) hk
  rw [← rotR_eq_rotL cd hle, ← Nat.add_sub_assoc hle] at hcR hdR
  exact ⟨hcL, hdL, hcR, hdR⟩

/-! ## The two orders of traversal (R114, R117 to R120) -/

/-- Settles O41, by the table of R114. -/
theorem rotationAmounts : Obligations.RotationAmounts :=
  ⟨by decide, by decide, by decide, by decide, by decide⟩

/-- R119: the places rotated before round `r`, `tau(r)` when decrypting and `sigma(r - 1)` when
encrypting. -/
def rotSum (m : Mode) (r : Nat) : Nat := ((List.range r).map (rotAmt m)).sum

section Schedule

variable (T : Tables) (cd : KeyReg) {r : Nat}

theorem rotSum_succ (m : Mode) (r : Nat) : rotSum m (r + 1) = rotSum m r + rotAmt m r := by
  simp [rotSum, List.range_succ]

/-- R120: what decrypting has rotated before round `r` is what encrypting still rotates after it has made
`16 - r` rounds. -/
theorem rotSum_decrypt_add_encrypt :
    ∀ r, r < 17 → rotSum .decrypt r + rotSum .encrypt (16 - r) = 28 := by
  decide

/-- R117: encrypting rotates first. -/
theorem roundSubkey_encrypt :
    roundSubkey T .encrypt cd r = subkey T (keyRegAt T .encrypt cd (r + 1)) := rfl

/-- R118: decrypting rotates last. -/
theorem roundSubkey_decrypt :
    roundSubkey T .decrypt cd r = subkey T (keyRegAt T .decrypt cd r) := rfl

theorem keyRegAt_encrypt_succ : keyRegAt T .encrypt cd (r + 1) =
    rotL (keyRegAt T .encrypt cd r) (rotAmt .encrypt r) := rfl

theorem keyRegAt_decrypt_succ : keyRegAt T .decrypt cd (r + 1) =
    rotR (keyRegAt T .decrypt cd r) (rotAmt .decrypt r) := rfl

/-- R119: the register when encrypting. -/
theorem keyRegAt_encrypt : keyRegAt T .encrypt cd r = rotL cd (rotSum .encrypt r) := by
  induction r with
  | zero => rfl
  | succ r ih => rw [keyRegAt_encrypt_succ, ih, rotL_rotL, rotSum_succ]

theorem keyRegAt_decrypt : keyRegAt T .decrypt cd r = rotR cd (rotSum .decrypt r) := by
  induction r with
  | zero => rfl
  | succ r ih => rw [keyRegAt_decrypt_succ, ih, rotR_rotR, rotSum_succ]

/-- R119: the register when decrypting, as a rotation to the left. -/
theorem keyRegAt_decrypt_eq_rotL (hr : r ≤ 16) :
    keyRegAt T .decrypt cd r = rotL cd (28 - rotSum .decrypt r) := by
  have hturn := rotSum_decrypt_add_encrypt r (Nat.lt_succ_of_le hr)
  rw [keyRegAt_decrypt, rotR_eq_rotL cd (by omega)]

/-- R120: decrypting passes through the registers of encrypting in reverse. -/
theorem keyRegAt_decrypt_eq_encrypt (hr : r ≤ 16) :
    keyRegAt T .decrypt cd r = keyRegAt T .encrypt cd (16 - r) := by
  have hturn := rotSum_decrypt_add_encrypt r (Nat.lt_succ_of_le hr)
  rw [keyRegAt_decrypt_eq_rotL T cd hr, keyRegAt_encrypt]
  congr 1
  omega

end Schedule

/-- Settles O44: the register a round's subkey is extracted from is one rotation of the loaded one. -/
theorem subkeysInClosedForm : Obligations.SubkeysInClosedForm := by
  intro T cd r hr
  rw [roundSubkey_encrypt, roundSubkey_decrypt, keyRegAt_encrypt, keyRegAt_decrypt_eq_rotL T cd hr.le]
  exact ⟨rfl, rfl⟩

/-- Settles O45: the registers of decrypting are those of encrypting in reverse, from the first to the
last. -/
theorem decryptSubkeysMirrorEncryptSubkeys : Obligations.DecryptSubkeysMirrorEncryptSubkeys := by
  intro T cd
  refine ⟨fun r hr => ?mirror, fun m => ?returns⟩
  case mirror =>
    have hround : 16 - r = 15 - r + 1 := by omega
    rw [roundSubkey_decrypt, keyRegAt_decrypt_eq_encrypt T cd hr.le, hround, roundSubkey_encrypt]
  case returns =>
    cases m with
    | encrypt => exact (keyRegAt_encrypt T cd).trans (rotL_full_turn cd)
    | decrypt => exact keyRegAt_decrypt_eq_encrypt T cd le_rfl

/-! ## The generic rotate (R121) -/

section GenericRotate

variable {f : KeyReg → KeyReg} {reg : List Byte}

theorem rotateBytes_of_length_ne (h : reg.length ≠ 7) :
    rotateBytes f reg = .error (.lengthError reg.length) := if_neg h

theorem rotateBytes_of_length_eq (h : reg.length = 7) :
    ∃ out, rotateBytes f reg = .result out ∧ out.length = 7 ∧
      vecOfBytes 56 out = f (vecOfBytes 56 reg) :=
  ⟨_, if_pos h, length_bytesOfVec _, vecOfBytes_bytesOfVec _ rfl⟩

end GenericRotate

/-- Settles O43: both rotations are the generic one. -/
theorem genericRotateChecksLength : Obligations.GenericRotateChecksLength :=
  fun _ => ⟨fun h => ⟨rotateBytes_of_length_ne h, rotateBytes_of_length_ne h⟩,
    fun h => ⟨rotateBytes_of_length_eq h, rotateBytes_of_length_eq h⟩⟩

/-! ## Dropped key bits (R123) -/

/-- R94: a network reads no source bit but those its table names. -/
theorem permuteNet_congr {src out : Nat} {x y : BitVec src} {t : List Nat}
    (h : ∀ q ∈ t, x.getMsbD (q - 1) = y.getMsbD (q - 1)) : permuteNet out x t = permuteNet out y t :=
  congrArg (fun bits => (BitVec.ofBoolListBE bits).setWidth out) (List.map_congr_left h)

/-- R123: KINIT is the only reader of the key. -/
theorem cipher_of_kinit_eq {T : Tables} {k₁ k₂ : Key} (h : kinit T k₁ = kinit T k₂) (p : Block)
    (m : Mode) : cipher T p k₁ m = cipher T p k₂ m := by
  have hstart : cipherStart T p k₁ = cipherStart T p k₂ := by simp only [cipherStart, h]
  rw [cipher, cipher, hstart]

/-- R46, R123: the default PC1 names no last bit of a key byte. -/
theorem keyPerm1_names_no_last_bit : ∀ q ∈ keyPerm1, q - 1 < 64 ∧ (q - 1) % 8 ≠ 7 := by
  decide

/-- Settles O46: keys that agree where PC1 looks load the same register. -/
theorem droppedKeyBitsInfluenceNothing : Obligations.DroppedKeyBitsInfluenceNothing := by
  have hall : ∀ (T : Tables) (k₁ k₂ : Key) (p : Block) (m : Mode),
      (∀ q ∈ T.pc1, k₁.getMsbD (q - 1) = k₂.getMsbD (q - 1)) → cipher T p k₁ m = cipher T p k₂ m :=
    fun _ _ _ p m h => cipher_of_kinit_eq (permuteNet_congr h) p m
  refine ⟨hall, fun k₁ k₂ p m h => hall defaultTables k₁ k₂ p m fun q hq => ?_⟩
  obtain ⟨hlt, hlast⟩ := keyPerm1_names_no_last_bit q hq
  exact h (q - 1) hlt hlast

end Sys2Proof.Machine

/-! # The round function (spec/42_round_function.md R130 to R136) -/

namespace Sys2Proof.Machine

/-! ## Cuts of a bit string (R13, R15) -/

section Cuts

variable {m n : Nat}

/-- R13: the whole of a string, as a cut. -/
theorem streamSlice_zero_self (x : BitVec n) : streamSlice x 0 n = x := by
  rw [streamSlice, Nat.zero_add, Nat.sub_self, BitVec.extractLsb'_eq_self]

/-- R15: the second operand of a concatenation, as a cut. -/
theorem streamSlice_append_second (x : BitVec m) (y : BitVec n) : streamSlice (x ++ y) m n = y :=
  (streamSlice_append_right x y 0 n (Nat.zero_add n).le).trans (streamSlice_zero_self y)

/-- R15: the first operand of a concatenation, as a cut. -/
theorem streamSlice_append_first (x : BitVec m) (y : BitVec n) : streamSlice (x ++ y) 0 m = x :=
  (streamSlice_append_left x y 0 m (Nat.zero_add m).le).trans (streamSlice_zero_self x)

/-- R13: a cut of a cut is a cut of the whole. -/
theorem streamSlice_streamSlice (x : BitVec n) {a len b len' : Nat} (h : a + len ≤ n)
    (h' : b + len' ≤ len) : streamSlice (streamSlice x a len) b len' = streamSlice x (a + b) len' := by
  apply BitVec.eq_of_getMsbD_eq
  intro k hk
  rw [getMsbD_streamSlice _ _ _ _ h', getMsbD_streamSlice _ _ _ _ h,
    getMsbD_streamSlice _ _ _ _ (by omega), decide_eq_true (by omega : b + k < len), Bool.true_and,
    Nat.add_assoc]

/-- R14: one more bit at the end of a cut doubles its number and adds the bit. -/
theorem toNat_streamSlice_succ (x : BitVec n) {a len : Nat} (h : a + (len + 1) ≤ n) :
    (streamSlice x a (len + 1)).toNat =
      2 * (streamSlice x a len).toNat + (x.getMsbD (a + len)).toNat := by
  have hbit : streamSlice x a (len + 1) = (streamSlice x a len).concat (x.getMsbD (a + len)) := by
    apply BitVec.eq_of_getMsbD_eq
    intro k hk
    rw [getMsbD_streamSlice _ _ _ _ h, BitVec.getMsbD_concat, getMsbD_streamSlice _ _ _ _ (by omega)]
    rcases Nat.lt_succ_iff_lt_or_eq.mp hk with hlt | rfl
    · simp [hk, hlt]
    · simp
  rw [hbit, BitVec.toNat_concat, Nat.mul_comm]

end Cuts

/-! ## Index formation (R79, R132) -/

/-- R79, R132: the weights of the six bits of a group, the first bit the most significant. -/
theorem sboxIndex_eq_weighted_bits (x : Subkey) {j : Nat} (hj : j < 8) :
    sboxIndex x j =
      32 * (x.getMsbD (6 * j)).toNat + 16 * (x.getMsbD (6 * j + 1)).toNat +
        8 * (x.getMsbD (6 * j + 2)).toNat + 4 * (x.getMsbD (6 * j + 3)).toNat +
        2 * (x.getMsbD (6 * j + 4)).toNat + (x.getMsbD (6 * j + 5)).toNat := by
  have hadd : ∀ len, len < 6 → (streamSlice x (6 * j) (len + 1)).toNat =
      2 * (streamSlice x (6 * j) len).toNat + (x.getMsbD (6 * j + len)).toNat :=
    fun len hlen => toNat_streamSlice_succ x (by omega)
  have hnone : (streamSlice x (6 * j) 0).toNat = 0 := BitVec.toNat_of_zero_length rfl _
  rw [sboxIndex, hadd 5 (by decide), hadd 4 (by decide), hadd 3 (by decide), hadd 2 (by decide),
    hadd 1 (by decide), hadd 0 (by decide), hnone, Nat.add_zero]
  omega

/-! ## Packing (R80, R134) -/

/-- R80: the shift and the or put the two nibbles side by side. -/
theorem packByte_eq_append (hi lo : BitVec 4) : packByte hi lo = hi ++ lo := by
  rw [packByte, BitVec.append_def, BitVec.shiftLeftZeroExtend_eq, BitVec.setWidth'_eq]

/-- R134: output byte `i` packs the entries of tables `2i` and `2i+1`. -/
theorem streamSlice_subst_byte (T : Tables) (x : Subkey) {i : Nat} (hi : i < 4) :
    streamSlice (subst T x) (8 * i) 8 =
      packByte (sboxOutput T x (2 * i)) (sboxOutput T x (2 * i + 1)) := by
  rw [subst]
  match i with
  | 0 => rw [streamSlice_append_left _ _ _ _ (by decide), streamSlice_append_left _ _ _ _ (by decide),
      streamSlice_append_first]
  | 1 => rw [streamSlice_append_left _ _ _ _ (by decide), streamSlice_append_left _ _ _ _ (by decide),
      streamSlice_append_second]
  | 2 => rw [streamSlice_append_left _ _ _ _ (by decide), streamSlice_append_second]
  | 3 => rw [streamSlice_append_second]

/-- R133, R134: nibble `j` is the output of lane `j`. -/
theorem streamSlice_subst_nibble (T : Tables) (x : Subkey) {j : Nat} (hj : j < 8) :
    streamSlice (subst T x) (4 * j) 4 = sboxOutput T x j := by
  obtain ⟨i, hparity⟩ := Nat.even_or_odd' j
  have hcut : ∀ b, b + 4 ≤ 8 → streamSlice (subst T x) (8 * i + b) 4 =
      streamSlice (sboxOutput T x (2 * i) ++ sboxOutput T x (2 * i + 1)) b 4 := fun b hb => by
    rw [← packByte_eq_append, ← streamSlice_subst_byte T x (by omega),
      streamSlice_streamSlice _ (by omega) hb]
  rcases hparity with rfl | rfl
  · rw [← Nat.mul_assoc]
    exact (hcut 0 (by decide)).trans (streamSlice_append_first _ _)
  · rw [Nat.mul_add, ← Nat.mul_assoc]
    exact (hcut 4 (by decide)).trans (streamSlice_append_second _ _)

/-- Settles O52: the packing keeps the lanes apart, and a group's bits carry their weights. -/
theorem substLooksUpEightLanes : Obligations.SubstLooksUpEightLanes := fun T x _ hj =>
  ⟨streamSlice_subst_nibble T x hj, sboxIndex_eq_weighted_bits x hj⟩

/-! ## The four steps (R136) -/

/-- R131, R136: the mixer's output determines the round function's. -/
theorem roundF_eq_of_mix_eq {T : Tables} {r r' : Half} {k k' : Subkey}
    (h : mix (expand T r) k = mix (expand T r') k') : roundF T r k = roundF T r' k' :=
  congrArg (fun mixed => pbox T (subst T mixed)) h

/-- Settles O54: the composite is its four steps by definition, and SUBST and PBOX see the mixed value alone. -/
theorem roundFunctionIsItsFourSteps : Obligations.RoundFunctionIsItsFourSteps := fun _ _ _ =>
  ⟨rfl, fun _ _ => roundF_eq_of_mix_eq⟩

end Sys2Proof.Machine

/-! # The orchestrator (spec/43_orchestrator.md R150 to R161) -/

namespace Sys2Proof.Machine

/-! ## Command steps (R153) -/

section Commands

variable {s t : State} {T : Tables} {m : Mode} {blen klen : LenField}

/-- R188: the block's length is the offending one where it is wrong, else the key's. -/
theorem sizeViolation_of_not_eight (h : ¬(blen = 8#4 ∧ klen = 8#4)) :
    sizeViolation blen klen = some (if blen ≠ 8#4 then blen else klen) := by
  have height (x : LenField) : x.toNat = 8 ↔ x = 8#4 := BitVec.toNat_inj (y := 8#4)
  simp only [sizeViolation, Config.blockBytes, Config.keyBytes, ne_eq, height]
  by_cases hb : blen = 8#4
  · have hk : klen ≠ 8#4 := fun hk => h ⟨hb, hk⟩
    simp [hb, hk]
  · simp [hb]

/-- R214: in BUSY a command is not taken. -/
theorem commandStep_busy (hp : s.phase = .busy) :
    commandStep T m blen klen s = .refused .commandInBusy := if_pos hp

theorem exec_commandOf : exec (commandOf m blen klen) s = commandStep tables m blen klen s := by
  cases m <;> rfl

/-- R153, R186: a command step reads the ports and the host's plan and writes neither. -/
theorem commandStep_keeps_host (h : commandStep T m blen klen s = .next t) :
    t.ports = s.ports ∧ t.host = s.host := by
  obtain ⟨-, ⟨a, -, rfl⟩ | ⟨-, rfl⟩⟩ := commandStep_next h
  · exact ⟨rfl, rfl⟩
  · exact ⟨rfl, rfl⟩

/-- R186: only an accepted command writes `MODE`, and it does not lead to ERROR. -/
theorem commandStep_keeps_mode (h : commandStep T m blen klen s = .next t) (hp : t.phase = .error) :
    t.mode = s.mode := by
  obtain ⟨-, ⟨a, -, rfl⟩ | ⟨-, rfl⟩⟩ := commandStep_next h
  · rfl
  · simp at hp

end Commands

/-- Settles O3: the length check decides between the writes of `load` and those of error entry. -/
theorem commandStepChecksThenLoads : Obligations.CommandStepChecksThenLoads := by
  intro s m blen klen i hi
  have hi : i = commandOf m blen klen := by
    cases m <;> exact hi
  rw [hi, exec_commandOf]
  refine ⟨fun hp hb hk => ?accepted, fun hp hlen => ?refused, commandStep_busy⟩
  case accepted => exact commandStep_accepted hp (sizeViolation_eq_none.mpr ⟨hb, hk⟩)
  case refused => exact commandStep_refused hp (sizeViolation_of_not_eight hlen)

/-! ## Rounds and FINISH (R154 to R157) -/

section MicroOperations

variable {s t : State} {T : Tables} {m : Mode} {rc : BitVec 5} {l r : Half} {cd : KeyReg}

/-- R156: a selected round with its operands there makes the Feistel update. -/
theorem roundStep_of_values (hp : s.phase = .busy) (hm : s.mode = some m) (hrc : s.rc.toNat < 16)
    (hl : s.l = some l) (hr : s.r = some r) (hcd : s.cd = some cd) :
    roundStep T m s.rc s = .next (s.feistelUpdate T l r (kstep T m s.rc.toNat cd)) := by
  rw [roundStep_selected hp hm hrc]
  simp only [withHalves, withKeyReg, hl, hr, hcd]

/-- R157: so does a selected `FINISH` make its writes. -/
theorem finishStep_of_values (hp : s.phase = .busy) (hrc : s.rc.toNat = 16) (hl : s.l = some l)
    (hr : s.r = some r) : finishStep T s = .next (s.finishWith T l r) := by
  rw [finishStep_selected hp hrc]
  simp only [withHalves, hl, hr]

theorem roundStep_not_selected
    (h : ¬(s.phase = .busy ∧ s.mode = some m ∧ s.rc = rc ∧ rc.toNat < 16)) :
    roundStep T m rc s = .refused .notSelected := if_neg h

theorem finishStep_not_selected (h : ¬(s.phase = .busy ∧ s.rc = 16#5)) :
    finishStep T s = .refused .notSelected :=
  if_neg fun ⟨hp, hrc⟩ => h ⟨hp, rc_eq_of_toNat hrc⟩

/-- R119, R120: in both modes round 15 brings the key register back to what KINIT loaded. -/
theorem kstep_last_round (cd₀ : KeyReg) : (kstep T m 15 (keyRegAt T m cd₀ 15)).1 = cd₀ := by
  obtain ⟨-, hreturns⟩ := decryptSubkeysMirrorEncryptSubkeys T cd₀
  exact hreturns m

/-- R154 to R156: a selected round with its operands there, the count after it, and the register after
round 15. -/
theorem roundStep_counts_and_returns (hp : s.phase = .busy) (hm : s.mode = some m)
    (hrc : s.rc.toNat < 16) (hl : s.l = some l) (hr : s.r = some r) (hcd : s.cd = some cd) :
    roundStep T m s.rc s = .next (s.feistelUpdate T l r (kstep T m s.rc.toNat cd)) ∧
      (s.rc + 1#5).toNat = s.rc.toNat + 1 ∧
      ∀ cd₀, s.rc = 15#5 → cd = keyRegAt T m cd₀ 15 → (kstep T m s.rc.toNat cd).1 = cd₀ := by
  refine ⟨roundStep_of_values hp hm hrc hl hr hcd, toNat_rc_succ hrc, fun cd₀ h15 hloaded => ?_⟩
  rw [h15, hloaded]
  exact kstep_last_round cd₀

/-- R156: what a round leaves unchanged. -/
theorem roundStep_frame (h : roundStep T m rc s = .next t) :
    t.mode = s.mode ∧ t.phase = s.phase ∧ t.result = s.result ∧ t.errcode = s.errcode ∧
      t.errexp = s.errexp ∧ t.erract = s.erract := by
  obtain ⟨-, -, -, -, l, r, cd, -, -, -, rfl⟩ := roundStep_next h
  exact ⟨rfl, rfl, rfl, rfl, rfl, rfl⟩

theorem roundStep_keeps_host (h : roundStep T m rc s = .next t) :
    t.ports = s.ports ∧ t.host = s.host := by
  obtain ⟨-, -, -, -, l, r, cd, -, -, -, rfl⟩ := roundStep_next h
  exact ⟨rfl, rfl⟩

/-- R157: what `FINISH` leaves unchanged. -/
theorem finishStep_frame (h : finishStep T s = .next t) :
    t.mode = s.mode ∧ t.rc = s.rc ∧ t.errcode = s.errcode ∧ t.errexp = s.errexp ∧
      t.erract = s.erract := by
  obtain ⟨-, -, l, r, -, -, rfl⟩ := finishStep_next h
  exact ⟨rfl, rfl, rfl, rfl, rfl⟩

theorem finishStep_keeps_host (h : finishStep T s = .next t) :
    t.ports = s.ports ∧ t.host = s.host := by
  obtain ⟨-, -, l, r, -, -, rfl⟩ := finishStep_next h
  exact ⟨rfl, rfl⟩

/-- The ports and the host's plan are outside the core: no operation changes them. -/
theorem exec_keeps_host {i : Instr} (h : exec i s = .next t) :
    t.ports = s.ports ∧ t.host = s.host := by
  cases i with
  | enc blen klen => exact commandStep_keeps_host (m := .encrypt) h
  | dec blen klen => exact commandStep_keeps_host (m := .decrypt) h
  | roundE rc => exact roundStep_keeps_host (m := .encrypt) h
  | roundD rc => exact roundStep_keeps_host (m := .decrypt) h
  | finish m => exact finishStep_keeps_host h
  | reset =>
    cases h
    exact ⟨rfl, rfl⟩

end MicroOperations

/-- Settles O13, operation by operation. -/
theorem operationFrames : Obligations.OperationFrames := by
  intro s t
  refine ⟨fun rc => ?round, fun m => finishStep_frame, fun blen klen => ?command,
    fun i => exec_keeps_host⟩
  case round =>
    exact List.forall_mem_cons.mpr ⟨roundStep_frame (m := .encrypt),
      List.forall_mem_singleton.mpr (roundStep_frame (m := .decrypt))⟩
  case command =>
    exact List.forall_mem_cons.mpr ⟨commandStep_keeps_mode (m := .encrypt),
      List.forall_mem_singleton.mpr (commandStep_keeps_mode (m := .decrypt))⟩

/-- Settles O8: `KSTEP.E` rotates the register before the subkey is extracted from it. -/
theorem roundEncryptRotatesThenExtracts : Obligations.RoundEncryptRotatesThenExtracts := by
  intro s l r cd cd' k hp hm hrc hl hr hcd hcd' hk
  subst hk hcd'
  exact roundStep_counts_and_returns hp hm hrc hl hr hcd

/-- Settles O9: `KSTEP.D` extracts the subkey from the register as it stands. -/
theorem roundDecryptExtractsThenRotates : Obligations.RoundDecryptExtractsThenRotates := by
  intro s l r cd cd' k hp hm hrc hl hr hcd hk hcd'
  subst hk hcd'
  exact roundStep_counts_and_returns hp hm hrc hl hr hcd

/-- Settles O10: `FINISH` joins the halves in exchanged order, which takes back the swap of round 15. -/
theorem finishSwapsAndPermutes : Obligations.FinishSwapsAndPermutes := by
  intro s m l r hp hrc hl hr
  refine ⟨finishStep_of_values hp (congrArg BitVec.toNat hrc) hl hr, ?_⟩
  rintro l15 r15 k15 rfl rfl
  rfl

/-- Settles O11: the registers of R158 are the guard of each micro-operation. -/
theorem unselectedMicroOperationIsRefused : Obligations.UnselectedMicroOperationIsRefused :=
  fun _ _ _ => ⟨roundStep_not_selected, roundStep_not_selected, finishStep_not_selected⟩

/-! ## The step (R150, R158) -/

section Step

variable {s : State} {m : Mode}

/-- A step that takes a word which decodes to nothing is stuck. -/
theorem stepBy_of_undecoded {ex : Instr → State → Host.Outcome State Fault Refusal}
    {c : ControlWord} {e : DecodeError} (hf : s.fetch = .ok (some c)) (hd : decode c = .error e) :
    stepBy ex s = .fault .noMicroOperation := by
  simp only [stepBy, hf, hd]

theorem step_of_reset (hr : s.ports.rst = true) :
    step s = .next s.resetRegisters.advanceHost :=
  stepBy_of_fetch (State.fetch_reset hr) rfl

theorem State.fetch_seqWord {w : BitVec 8} (hr : s.ports.rst = false) (hs : s.ports.start = false)
    (hp : s.phase = .busy) (hw : s.seqWord = some w) : s.fetch = .ok (some (.seq w)) := by
  simp [State.fetch, hr, hs, hp, hw]

theorem State.fetch_nothing (hr : s.ports.rst = false) (hs : s.ports.start = false)
    (hp : s.phase ≠ .busy) : s.fetch = .ok none := by
  simp [State.fetch, hr, hs, hp]

/-- R24, R25: a reachable BUSY state, with both strobes low, is in one of the sixteen rounds or after
them, with values to go on from. -/
theorem State.Inv.holdsRound (hi : s.Inv) (hr : s.ports.rst = false) (hs : s.ports.start = false)
    (hp : s.phase = .busy) :
    s.rc.toNat ≤ 16 ∧ ∃ m d, s.HoldsRound m s.rc.toNat d s.host := by
  obtain ⟨-, hbusy, -, -⟩ := hi
  obtain ⟨hl, hR, hcd, hm, hrc, hresult, herrcode, -, -⟩ := hbusy hp
  obtain ⟨l, hl⟩ := Option.isSome_iff_exists.mp hl
  obtain ⟨r, hR⟩ := Option.isSome_iff_exists.mp hR
  obtain ⟨cd, hcd⟩ := Option.isSome_iff_exists.mp hcd
  obtain ⟨m, hm⟩ := Option.isSome_iff_exists.mp hm
  exact ⟨hrc, m, ⟨l, r, cd⟩,
    { phase := hp, mode := hm, rc := rfl, l := hl, r := hR, cd := hcd, result := hresult
      errcode := herrcode, rst := hr, start := hs, host := rfl }⟩

/-- R158: the sequencer has a step in every reachable BUSY state. -/
theorem State.Inv.step_busy (hi : s.Inv) (hr : s.ports.rst = false) (hs : s.ports.start = false)
    (hp : s.phase = .busy) : ∃ t, step s = .next t := by
  obtain ⟨hrc, m, d, hround⟩ := hi.holdsRound hr hs hp
  rw [step_eq_stepWith]
  rcases Nat.lt_or_eq_of_le hrc with hlt | heq
  · exact ⟨_, stepWith_round_eq hround hlt⟩
  · rw [heq] at hround
    exact ⟨_, stepWith_finish hround⟩

end Step

/-- Settles O15: the sequencer's word in BUSY decodes by `RC`. -/
theorem sequencerStepsByRc : Obligations.SequencerStepsByRc := by
  intro s m hr hs hp hm
  have hfetch := State.fetch_busy hr hs hp hm
  refine ⟨fun hrc he => ?encrypt, fun hrc hd => ?decrypt, fun hrc => ?finish, fun hrc => ?stuck⟩
  case encrypt =>
    subst he
    exact stepBy_of_fetch hfetch (decode_sequencerWord_round .encrypt s.rc hrc)
  case decrypt =>
    subst hd
    exact stepBy_of_fetch hfetch (decode_sequencerWord_round .decrypt s.rc hrc)
  case finish => exact stepBy_of_fetch hfetch (decode_sequencerWord_finish m s.rc hrc)
  case stuck => exact stepBy_of_undecoded hfetch (decode_sequencerWord_stuck m s.rc hrc)

/-- Settles O16: `fetch` asks for reset, then for a command, then for BUSY. -/
theorem stepRunsTheDecodedWord : Obligations.StepRunsTheDecodedWord :=
  fun _ => ⟨State.fetch_reset, State.fetch_command, fun hr hs hp _ => State.fetch_seqWord hr hs hp,
    State.fetch_nothing, fun _ _ => stepBy_of_fetch⟩

/-- Settles O24, by the word a step takes: reset completes everywhere, a command outside BUSY, and in
BUSY the sequencer finds its operands there by the invariant. -/
theorem noStopWhileTheHostWaits : Obligations.NoStopWhileTheHostWaits := by
  intro s hi hwaits
  cases hr : s.ports.rst with
  | true => exact ⟨_, step_of_reset hr⟩
  | false =>
    cases hs : s.ports.start with
    | true =>
      have hp : s.phase ≠ .busy := fun hp => by simp [hwaits hp hs] at hr
      obtain ⟨t, ht⟩ := commandStep_completes hp
      exact ⟨t.advanceHost, by rw [step_of_command hr hs, ht, mapNext_next]⟩
    | false =>
      by_cases hp : s.phase = .busy
      · exact hi.step_busy hr hs hp
      · exact ⟨_, step_of_nothing_selected hr hs hp⟩

/-! ## A transaction (R158 to R160) -/

/-- Settles O32: the machine holds the values of `CIPHER` round by round. -/
theorem roundsFollowTheCipherFunction : Obligations.RoundsFollowTheCipherFunction := by
  intro T s m k hp hr hs hc hhost hk
  obtain ⟨t, hrun, ht⟩ := runWith_accepted (T := T) hp hr hs hc hhost hk
  exact ⟨t, hrun, ht.phase, ht.mode, ht.rc, ht.l, ht.r, ht.cd, ht.result⟩

/-- Settles O33: sixteen rounds between the command step and `FINISH` when the lengths are right, else
error entry in the command step. -/
theorem transactionEndsWithCipher : Obligations.TransactionEndsWithCipher := by
  intro T s m blen klen hp hr hs hc hhost
  refine ⟨fun hb hk => ?accepted, fun hlen => ?refused⟩
  case accepted =>
    subst hb hk
    refine ⟨?done, fun k t hk₁ hk₁₈ hrun => ?before⟩
    case done =>
      obtain ⟨t, d, ht, hcipher, hrun⟩ := runWith_accepted_finish (T := T) hp hr hs hc hhost
      exact ⟨_, hrun, rfl, congrArg some hcipher, ht.errcode, rfl, rfl, rfl, rc_eq_of_toNat ht.rc,
        ht.mode⟩
    case before =>
      obtain ⟨j, rfl⟩ := Nat.exists_eq_add_of_le' hk₁
      obtain ⟨u, hrun', hu⟩ := runWith_accepted (T := T) hp hr hs hc hhost (k := j) (by omega)
      cases hrun.symm.trans hrun'
      exact hu.phase
  case refused =>
    have hstep := stepWith_commandWord (T := T) hr hs hc
    rw [commandStep_refused hp (sizeViolation_of_not_eight hlen)] at hstep
    exact ⟨_, runWith_one_of_next hstep, rfl, rfl, rfl, rfl⟩

/-- Settles O36: the checks in their order; the 8 bytes of the result carry `CIPHER` back. -/
theorem cipherOnByteSequences : Obligations.CipherOnByteSequences :=
  fun _ _ _ _ => ⟨fun hb => if_pos hb,
    fun hb hk => (if_neg (not_not.mpr hb)).trans (if_pos hk),
    fun hb hk => ⟨_, (if_neg (not_not.mpr hb)).trans (if_neg (not_not.mpr hk)),
      length_bytesOfVec _, vecOfBytes_bytesOfVec _ rfl⟩⟩

/-! ## The inverse law (R161) -/

section InversePermutations

variable {T : Tables} {i : Nat}

/-- R43 (6) as a statement about the entries of IP. -/
theorem finalInvertsInitial_iff :
    T.finalInvertsInitial = true ↔
      (∀ i < 64, T.fp.getD (T.ip.getD i 0 - 1) 0 = i + 1) ∧ T.ip.Nodup := by
  simp [Tables.finalInvertsInitial]

/-- R43: 64 different positions are all of them. -/
theorem exists_initial_entry (hlen : T.ip.length = 64)
    (hpos : Tables.positionsWithin T.ip 64 = true) (hnodup : T.ip.Nodup) {j : Nat} (hj : j < 64) :
    ∃ i : Nat, T.ip[i]? = some (j + 1) := by
  have hsubset : T.ip.toFinset ⊆ Finset.Icc 1 64 := fun q hq =>
    Finset.mem_Icc.mpr ((positionsWithin_iff T.ip 64).mp hpos q (List.mem_toFinset.mp hq))
  have hcard : (Finset.Icc 1 64).card ≤ T.ip.toFinset.card := by
    rw [List.toFinset_card_of_nodup hnodup, hlen]
    decide
  have hall := Finset.eq_of_subset_of_card_le hsubset hcard
  have hmem : j + 1 ∈ T.ip.toFinset := by
    rw [hall, Finset.mem_Icc]
    omega
  exact List.mem_iff_getElem?.mp (List.mem_toFinset.mp hmem)

/-- R43 (6): FP holds, at the position an entry of IP names, that entry's own position. -/
theorem final_entry_of_initial_entry (hlengths : T.lengthsOk = true) (hranges : T.rangesOk = true)
    (hinv : T.finalInvertsInitial = true) {q : Nat} (hq : T.ip[i]? = some q) :
    T.fp[q - 1]? = some (i + 1) := by
  obtain ⟨lip, lfp, -⟩ := (lengthsOk_iff T).mp hlengths
  obtain ⟨rip, -⟩ := (rangesOk_iff T).mp hranges
  obtain ⟨hinverse, -⟩ := finalInvertsInitial_iff.mp hinv
  obtain ⟨hi, -⟩ := List.getElem?_eq_some_iff.mp hq
  obtain ⟨hge, hle⟩ := (positionsWithin_iff T.ip 64).mp rip q (List.mem_of_getElem? hq)
  have hlt : q - 1 < T.fp.length := by omega
  have hentry := hinverse i (lip ▸ hi)
  rw [List.getD_eq_getElem?_getD (l := T.ip), hq, Option.getD_some,
    List.getD_eq_getElem _ _ hlt] at hentry
  rw [List.getElem?_eq_getElem hlt, hentry]

/-- R161: IP undoes FP. -/
theorem initial_permutes_final_back (hlengths : T.lengthsOk = true) (hranges : T.rangesOk = true)
    (hinv : T.finalInvertsInitial = true) (x : Block) :
    permuteNet 64 (permuteNet 64 x T.fp) T.ip = x := by
  obtain ⟨lip, lfp, -⟩ := (lengthsOk_iff T).mp hlengths
  apply BitVec.eq_of_getMsbD_eq
  intro i hi
  have hq := List.getElem?_eq_getElem (lip ▸ hi : i < T.ip.length)
  rw [getMsbD_permuteNet_of_getElem? _ lip hq, getMsbD_permuteNet_of_getElem? _ lfp
    (final_entry_of_initial_entry hlengths hranges hinv hq), Nat.add_sub_cancel]

/-- R161: FP undoes IP. -/
theorem final_permutes_initial_back (hlengths : T.lengthsOk = true) (hranges : T.rangesOk = true)
    (hinv : T.finalInvertsInitial = true) (x : Block) :
    permuteNet 64 (permuteNet 64 x T.ip) T.fp = x := by
  obtain ⟨lip, lfp, -⟩ := (lengthsOk_iff T).mp hlengths
  obtain ⟨rip, -⟩ := (rangesOk_iff T).mp hranges
  obtain ⟨-, hnodup⟩ := finalInvertsInitial_iff.mp hinv
  apply BitVec.eq_of_getMsbD_eq
  intro j hj
  obtain ⟨i, hi⟩ := exists_initial_entry lip rip hnodup hj
  have hfinal := final_entry_of_initial_entry hlengths hranges hinv hi
  rw [Nat.add_sub_cancel] at hfinal
  rw [getMsbD_permuteNet_of_getElem? _ lfp hfinal, Nat.add_sub_cancel,
    getMsbD_permuteNet_of_getElem? _ lip hi, Nat.add_sub_cancel]

end InversePermutations

section InverseLaw

variable {T : Tables} {m m' : Mode} {d d' : Datapath} {r n : Nat}

/-- R119, R159: the rounds of `CIPHER` move the key register as the schedule does. -/
theorem cipherRounds_cd : (cipherRounds T m d n).cd = keyRegAt T m d.cd n := by
  induction n with
  | zero => rfl
  | succ n ih => exact congrArg (fun cd => (kstep T m n cd).1) ih

theorem cipherRounds_succ_l : (cipherRounds T m d (n + 1)).l = (cipherRounds T m d n).r := rfl

/-- R156, R159: a round's new right half, with the subkey the schedule gives it. -/
theorem cipherRounds_succ_r : (cipherRounds T m d (n + 1)).r =
    (cipherRounds T m d n).l ^^^ roundF T (cipherRounds T m d n).r (roundSubkey T m d.cd n) := by
  rw [roundSubkey, ← cipherRounds_cd]
  rfl

/-- R120: each mode takes the subkeys of the other in reverse. -/
theorem roundSubkey_mirror (hm : m ≠ m') (cd : KeyReg) (hr : r < 16) :
    roundSubkey T m' cd r = roundSubkey T m cd (15 - r) := by
  obtain ⟨hmirror, -⟩ := decryptSubkeysMirrorEncryptSubkeys T cd
  cases m with
  | encrypt =>
    cases m' with
    | encrypt => exact absurd rfl hm
    | decrypt => exact hmirror r hr
  | decrypt =>
    cases m' with
    | encrypt =>
      have hback := hmirror (15 - r) (by omega)
      rwa [Nat.sub_sub_self (by omega : r ≤ 15), eq_comm] at hback
    | decrypt => exact absurd rfl hm

/-- R161, the induction: from the exchanged halves after sixteen rounds, the rounds of the other mode
run back through all the halves, exchanged. -/
theorem cipherRounds_reverse (hm : m ≠ m') (hcd : d'.cd = d.cd)
    (hl : d'.l = (cipherRounds T m d 16).r) (hR : d'.r = (cipherRounds T m d 16).l) (hr : r ≤ 16) :
    (cipherRounds T m' d' r).l = (cipherRounds T m d (16 - r)).r ∧
      (cipherRounds T m' d' r).r = (cipherRounds T m d (16 - r)).l := by
  induction r with
  | zero => exact ⟨hl, hR⟩
  | succ r ih =>
    obtain ⟨ihl, ihr⟩ := ih (by omega)
    have hround : 16 - r = 15 - r + 1 := by omega
    have hleft : 16 - (r + 1) = 15 - r := by omega
    rw [hround, cipherRounds_succ_r] at ihl
    rw [hround, cipherRounds_succ_l] at ihr
    rw [hleft, cipherRounds_succ_l, cipherRounds_succ_r, ihl, ihr, hcd,
      roundSubkey_mirror hm d.cd (by omega), BitVec.xor_assoc, BitVec.xor_self, BitVec.xor_zero]
    exact ⟨rfl, rfl⟩

/-- R15: a block is its two halves. -/
theorem streamSlice_halves (x : Block) : streamSlice x 0 32 ++ streamSlice x 32 32 = x :=
  (BitVec.extractLsb'_append_extractLsb'_eq_extractLsb' rfl).trans BitVec.extractLsb'_eq_self

variable (hlengths : T.lengthsOk = true) (hranges : T.rangesOk = true)
  (hinv : T.finalInvertsInitial = true) (p : Block) (key : Key)

include hlengths hranges hinv

/-- R161: the transaction on a result starts from the exchanged halves it was made of. -/
theorem cipherStart_cipherFinish (l r : Half) :
    cipherStart T (cipherFinish T l r) key = { l := r, r := l, cd := kinit T key } := by
  rw [cipherStart, cipherFinish, initial_permutes_final_back hlengths hranges hinv,
    streamSlice_append_first, streamSlice_append_second]

/-- R161: the halves of the transaction in the other mode, round by round. -/
theorem cipherRounds_of_cipher (hm : m ≠ m') (hr : r ≤ 16) :
    (cipherRounds T m' (cipherStart T (cipher T p key m) key) r).l =
        (cipherRounds T m (cipherStart T p key) (16 - r)).r ∧
      (cipherRounds T m' (cipherStart T (cipher T p key m) key) r).r =
        (cipherRounds T m (cipherStart T p key) (16 - r)).l := by
  rw [cipher, cipherStart_cipherFinish hlengths hranges hinv]
  exact cipherRounds_reverse hm rfl rfl rfl hr

/-- R161: the other mode gives the block back. -/
theorem cipher_cipher (hm : m ≠ m') : cipher T (cipher T p key m) key m' = p := by
  obtain ⟨hl, hr⟩ := cipherRounds_of_cipher hlengths hranges hinv p key hm (Nat.le_refl 16)
  calc cipher T (cipher T p key m) key m'
      = cipherFinish T (cipherStart T p key).r (cipherStart T p key).l := by
        rw [cipher, hl, hr]
        rfl
    _ = permuteNet 64 (permuteNet 64 p T.ip) T.fp :=
        congrArg (permuteNet 64 · T.fp) (streamSlice_halves _)
    _ = p := final_permutes_initial_back hlengths hranges hinv p

end InverseLaw

/-- Settles O34: the law holds between the two modes in either order. -/
theorem decryptInvertsEncrypt : Obligations.DecryptInvertsEncrypt :=
  fun _ key p hlengths hranges hinv =>
    ⟨cipher_cipher hlengths hranges hinv p key (by decide),
      cipher_cipher hlengths hranges hinv p key (by decide),
      fun _ => cipherRounds_of_cipher hlengths hranges hinv p key (by decide)⟩

/-- Settles O35: both transactions end with `CIPHER` of their operands. -/
theorem machineRoundTrip : Obligations.MachineRoundTrip := by
  intro T m m' s₁ hlengths hranges hinv hm hp hr hs hc hhost
  obtain ⟨_, d, -, hcipher, hrun⟩ := runWith_accepted_finish (T := T) hp hr hs hc hhost
  refine ⟨_, _, hrun, congrArg some hcipher, fun s₂ hp₂ hr₂ hs₂ hc₂ hhost₂ hblock hkey => ?_⟩
  obtain ⟨_, d₂, -, hcipher₂, hrun₂⟩ := runWith_accepted_finish (T := T) hp₂ hr₂ hs₂ hc₂ hhost₂
  rw [hblock, hkey, cipher_cipher hlengths hranges hinv _ _ hm] at hcipher₂
  exact ⟨_, hrun₂, congrArg some hcipher₂⟩

end Sys2Proof.Machine

/-! # Errors and how they are left (spec/60_exceptions.md R186, R190) -/

namespace Sys2Proof.Machine

section ErrorEntry

variable {s : State} {i : Instr} {blen klen : LenField}

/-- R151, R152: a command of either mnemonic is the command of a mode. -/
theorem mem_commands_iff :
    i ∈ [Instr.enc blen klen, Instr.dec blen klen] ↔ ∃ m, i = commandOf m blen klen := by
  rw [List.mem_pair]
  constructor
  · rintro (rfl | rfl)
    · exact ⟨.encrypt, rfl⟩
    · exact ⟨.decrypt, rfl⟩
  · rintro ⟨_ | _, rfl⟩
    · exact .inl rfl
    · exact .inr rfl

/-- R153: where commands are taken, a command of two lengths 8 loads the datapath for its mode. -/
theorem exec_command_accepted (hp : s.phase ≠ .busy)
    (hi : i ∈ [Instr.enc 8#4 8#4, Instr.dec 8#4 8#4]) :
    ∃ m, exec i s = .next (s.beginCommand.load tables m) := by
  obtain ⟨m, rfl⟩ := mem_commands_iff.mp hi
  exact ⟨m, exec_commandOf.trans (commandStep_accepted hp (sizeViolation_eq_none.mpr ⟨rfl, rfl⟩))⟩

/-- R186, R188: any other command there raises SizeMismatch, whatever its mode. -/
theorem exec_command_refused (hp : s.phase ≠ .busy) (hlen : ¬(blen = 8#4 ∧ klen = 8#4))
    (hi : i ∈ [Instr.enc blen klen, Instr.dec blen klen]) :
    exec i s =
      .next (s.beginCommand.raiseSizeMismatch 8#4 (if blen ≠ 8#4 then blen else klen)) := by
  obtain ⟨m, rfl⟩ := mem_commands_iff.mp hi
  exact exec_commandOf.trans (commandStep_refused hp (sizeViolation_of_not_eight hlen))

end ErrorEntry

/-- Settles O4: the state is the one error entry writes, and in ERROR with both strobes low there is no
word to take. -/
theorem refusedCommandEntersError : Obligations.RefusedCommandEntersError := by
  intro s blen klen hp hlen i hi
  refine ⟨_, exec_command_refused hp hlen hi, ?writes⟩
  case writes =>
    have hnotBusy {e a : LenField} : (s.beginCommand.raiseSizeMismatch e a).phase ≠ .busy := by simp
    exact ⟨rfl, rfl, rfl, rfl, rfl, rfl, rfl, rfl, rfl, rfl, rfl, rfl,
      fun hr hs => State.fetch_nothing hr hs hnotBusy⟩

/-- Settles O7: ERROR takes commands and reset as every phase but BUSY does, and selects nothing by
itself. -/
theorem errorIsLeftByCommandOrReset : Obligations.ErrorIsLeftByCommandOrReset := by
  intro s herror
  have hp : s.phase ≠ .busy := by simp [herror]
  refine ⟨fun i hi => ?accepted, fun blen klen hlen i hi => ?refused, ?reset, fun hr hs => ?quiet⟩
  case accepted =>
    obtain ⟨m, hexec⟩ := exec_command_accepted hp hi
    exact ⟨_, hexec, rfl, rfl, rfl, rfl⟩
  case refused => exact ⟨_, exec_command_refused hp hlen hi, rfl, rfl, rfl, rfl⟩
  case reset => exact ⟨s.resetRegisters, rfl, rfl, rfl⟩
  case quiet =>
    refine ⟨State.fetch_nothing hr hs hp, fun t ht => ?_⟩
    obtain ⟨u, hu, hregisters, -, -⟩ := nothingSelectedChangesNoRegister s hr hs hp
    rw [hu] at ht
    cases ht
    exact hregisters

end Sys2Proof.Machine

/-! # Reset, the host's reads and the inputs (spec/70_reset_and_hazards.md R210 to R217) -/

namespace Sys2Proof.Machine

/-! ## What the output ports carry (R165, R215, R216) -/

section Outputs

variable {s : State}

/-- R83: code 0 is the one of no error. -/
theorem ErrCode.code_eq_zero_iff {e : ErrCode} : e.code = 0#3 ↔ e = .none := by
  cases e <;> decide

theorem State.outputs_result_isSome_iff :
    s.outputs.result.isSome ↔ s.phase = .done ∧ s.result.isSome := by
  by_cases hp : s.phase = .done <;> simp [State.outputs, hp]

theorem State.outputs_errexp_isSome_iff :
    s.outputs.errexp.isSome ↔ s.phase = .error ∧ s.errexp.isSome := by
  by_cases hp : s.phase = .error <;> simp [State.outputs, hp]

theorem State.outputs_erract_isSome_iff :
    s.outputs.erract.isSome ↔ s.phase = .error ∧ s.erract.isSome := by
  by_cases hp : s.phase = .error <;> simp [State.outputs, hp]

/-- R28: outside ERROR no error class is held. -/
theorem State.Inv.errcode_none (hi : s.Inv) (hp : s.phase ≠ .error) : s.errcode = .none := by
  obtain ⟨hidle, hbusy, hdone, -⟩ := hi
  cases hphase : s.phase with
  | idle =>
    obtain ⟨-, -, -, -, -, -, herrcode, -⟩ := hidle hphase
    exact herrcode
  | busy =>
    obtain ⟨-, -, -, -, -, -, herrcode, -⟩ := hbusy hphase
    exact herrcode
  | done =>
    obtain ⟨-, -, -, -, -, -, herrcode, -⟩ := hdone hphase
    exact herrcode
  | error => exact absurd hphase hp

/-- R27: in DONE the result is held. -/
theorem State.Inv.result_isSome (hi : s.Inv) (hp : s.phase = .done) : s.result.isSome := by
  obtain ⟨-, -, hdone, -⟩ := hi
  obtain ⟨-, -, -, -, -, hresult, -⟩ := hdone hp
  exact hresult

/-- R28: in ERROR the class, the expected and the actual length are held. -/
theorem State.Inv.error_registers (hi : s.Inv) (hp : s.phase = .error) :
    s.errcode = .sizeMismatch ∧ s.errexp.isSome ∧ s.erract.isSome := by
  obtain ⟨-, -, -, herror⟩ := hi
  obtain ⟨-, -, -, -, -, herrcode, herrexp, herract, -⟩ := herror hp
  exact ⟨herrcode, by simp [herrexp], herract⟩

/-- R28: the error class says whether the machine is in ERROR. -/
theorem State.Inv.errcode_eq_none_iff (hi : s.Inv) : s.errcode = .none ↔ s.phase ≠ .error := by
  refine ⟨fun hnone hp => ?_, hi.errcode_none⟩
  obtain ⟨hmismatch, -, -⟩ := hi.error_registers hp
  simp [hnone] at hmismatch

/-- R150: the host's part of a step changes no output. -/
@[simp] theorem State.advanceHost_outputs : s.advanceHost.outputs = s.outputs := rfl

end Outputs

/-- Settles O28: a port is gated by the phase in which the invariant says that its register holds a
value, and outside BUSY a step without a strobe is the host's part alone. -/
theorem outputsCarryValuesOnlyWhenValid : Obligations.OutputsCarryValuesOnlyWhenValid := by
  intro s hi
  refine ⟨?result, ?errexp, ?erract, ?errcode, fun hphase hr hs => ?kept⟩
  case result => exact State.outputs_result_isSome_iff.trans (and_iff_left_of_imp hi.result_isSome)
  case errexp =>
    refine State.outputs_errexp_isSome_iff.trans (and_iff_left_of_imp fun hp => ?_)
    obtain ⟨-, herrexp, -⟩ := hi.error_registers hp
    exact herrexp
  case erract =>
    refine State.outputs_erract_isSome_iff.trans (and_iff_left_of_imp fun hp => ?_)
    obtain ⟨-, -, herract⟩ := hi.error_registers hp
    exact herract
  case errcode => exact ErrCode.code_eq_zero_iff.trans hi.errcode_eq_none_iff
  case kept =>
    have hp : s.phase ≠ .busy := by
      rcases hphase with hp | hp <;> simp [hp]
    exact ⟨s.advanceHost, step_of_nothing_selected hr hs hp, State.advanceHost_outputs⟩

/-! ## Reset (R210, R211) -/

/-- R32, R210: the outputs after reset. -/
theorem State.resetRegisters_outputs {s : State} : s.resetRegisters.outputs =
    { phase := 0#2, result := none, errcode := 0#3, errexp := none, erract := none } := rfl

/-- R32: a reachable IDLE state shows what reset shows. -/
theorem State.Inv.outputs_idle {s : State} (hi : s.Inv) (hp : s.phase = .idle) : s.outputs =
    { phase := 0#2, result := none, errcode := 0#3, errexp := none, erract := none } := by
  have herrcode : s.errcode = .none := hi.errcode_none (by simp [hp])
  simp [State.outputs, hp, herrcode, Phase.code, ErrCode.code]

/-- R210: a second reset finds nothing to write. -/
theorem State.resetRegisters_resetRegisters {s : State} :
    s.resetRegisters.resetRegisters = s.resetRegisters := rfl

theorem exec_reset (s : State) : exec .reset s = .next s.resetRegisters := rfl

/-- Settles O1: the registers by the definition of the reset state, the step by IDLE, which selects
nothing. -/
theorem resetStateIsTheTableOfResetValues : Obligations.ResetStateIsTheTableOfResetValues := by
  refine ⟨rfl, rfl, rfl, rfl, rfl, rfl, rfl, rfl, rfl, rfl, fun p hr hs => ?_⟩
  have hp : State.reset.phase ≠ .busy := by decide
  exact State.fetch_nothing hr hs hp

/-- Settles O2: the writes of reset do not depend on the state, a reachable IDLE state already shows
them, and `fetch` asks for reset first. -/
theorem resetWritesEveryRegisterAndOverrides : Obligations.ResetWritesEveryRegisterAndOverrides := by
  intro s
  refine ⟨⟨s.resetRegisters, exec_reset s, rfl, rfl, rfl, rfl, rfl, rfl, rfl, rfl, rfl, rfl, rfl, rfl,
    ?again, State.resetRegisters_outputs, fun hi hp => ?silent⟩, fun hr => ?overrides⟩
  case again => rw [exec_reset, State.resetRegisters_resetRegisters]
  case silent => rw [State.resetRegisters_outputs, hi.outputs_idle hp]
  case overrides => rw [exec_reset, step_of_reset hr, mapNext_next]

/-! ## A command in BUSY (R214) -/

/-- R214: both mnemonics are refused in BUSY. -/
theorem exec_commandOf_busy {s : State} {m : Mode} {blen klen : LenField} (hp : s.phase = .busy) :
    exec (commandOf m blen klen) s = .refused .commandInBusy :=
  exec_commandOf.trans (commandStep_busy hp)

/-- Settles O5: a command step asks for `PHASE` first, and a presented command is the step taken. -/
theorem commandInBusyIsNotTaken : Obligations.CommandInBusyIsNotTaken := by
  intro s hp
  refine ⟨fun blen klen => ⟨exec_commandOf_busy (m := .encrypt) hp,
    exec_commandOf_busy (m := .decrypt) hp⟩, fun hs hr => ?presented⟩
  case presented => rw [step_of_command hr hs, commandStep_busy hp, mapNext_refused]

/-! ## When the data lines are sampled (R217) -/

/-- Other levels on `cmd`, `block_in` and `key_in`, everything else as it is. -/
def State.withDataLevels (w : BitVec 9) (b k : BitVec 64) (s : State) : State :=
  { s with ports := { s.ports with cmd := w, blockIn := b, keyIn := k } }

section DataLevels

variable (s : State) (w : BitVec 9) (b k : BitVec 64) {T : Tables} {m : Mode} {rc : BitVec 5}

theorem mapNext_withHalves (f : State → State)
    (cont : Half → Half → Host.Outcome State Fault Refusal) :
    mapNext f (withHalves s cont) = withHalves s fun l r => mapNext f (cont l r) := by
  unfold withHalves
  split <;> rfl

theorem mapNext_withKeyReg (f : State → State) (cont : KeyReg → Host.Outcome State Fault Refusal) :
    mapNext f (withKeyReg s cont) = withKeyReg s fun cd => mapNext f (cont cd) := by
  unfold withKeyReg
  split <;> rfl

/-- R156: a round neither reads nor writes a data line. -/
theorem roundStep_withDataLevels : roundStep T m rc (s.withDataLevels w b k) =
    mapNext (State.withDataLevels w b k) (roundStep T m rc s) := by
  by_cases hsel : s.phase = .busy ∧ s.mode = some m ∧ s.rc = rc ∧ rc.toNat < 16
  · obtain ⟨hp, hm, rfl, hrc⟩ := hsel
    rw [roundStep_selected hp hm hrc, mapNext_withHalves]
    simp only [mapNext_withKeyReg]
    exact roundStep_selected (s := s.withDataLevels w b k) hp hm hrc
  · rw [roundStep_not_selected hsel]
    exact roundStep_not_selected (s := s.withDataLevels w b k) hsel

/-- R157: nor does `FINISH`. -/
theorem finishStep_withDataLevels : finishStep T (s.withDataLevels w b k) =
    mapNext (State.withDataLevels w b k) (finishStep T s) := by
  by_cases hsel : s.phase = .busy ∧ s.rc = 16#5
  · obtain ⟨hp, hrc⟩ := hsel
    have hrc : s.rc.toNat = 16 := congrArg BitVec.toNat hrc
    rw [finishStep_selected hp hrc, mapNext_withHalves]
    exact finishStep_selected (s := s.withDataLevels w b k) hp hrc
  · rw [finishStep_not_selected hsel]
    exact finishStep_not_selected (s := s.withDataLevels w b k) hsel

variable {s}

/-- R214, R217: in BUSY no operation samples a data line; a command would, and is not taken there. -/
theorem exec_withDataLevels_of_busy (hp : s.phase = .busy) (i : Instr) :
    exec i (s.withDataLevels w b k) = mapNext (State.withDataLevels w b k) (exec i s) := by
  have hcommand (m : Mode) (blen klen : LenField) :
      exec (commandOf m blen klen) (s.withDataLevels w b k) =
        mapNext (State.withDataLevels w b k) (exec (commandOf m blen klen) s) := by
    rw [exec_commandOf_busy hp, exec_commandOf_busy (s := s.withDataLevels w b k) hp, mapNext_refused]
  cases i with
  | enc blen klen => exact hcommand .encrypt blen klen
  | dec blen klen => exact hcommand .decrypt blen klen
  | roundE rc => exact roundStep_withDataLevels s w b k
  | roundD rc => exact roundStep_withDataLevels s w b k
  | finish m => exact finishStep_withDataLevels s w b k
  | reset => rfl

/-- The host's part of a step hands the data lines on; it does not bring them into a register. -/
theorem mapNext_registers_advanceHost_withDataLevels (o : Host.Outcome State Fault Refusal) :
    mapNext State.registers (mapNext State.advanceHost (mapNext (State.withDataLevels w b k) o)) =
      mapNext State.registers (mapNext State.advanceHost o) := by
  cases o <;> rfl

/-- R158, R217: in BUSY, with both strobes low, the sequencer takes its own word, whatever stands on the
data lines, and ends the same way. -/
theorem step_withDataLevels_of_busy (hr : s.ports.rst = false) (hs : s.ports.start = false)
    (hp : s.phase = .busy) :
    mapNext State.registers (step (s.withDataLevels w b k)) = mapNext State.registers (step s) := by
  cases hm : s.mode with
  | none =>
    rw [step_of_fetch_error (State.fetch_mode_none hr hs hp hm),
      step_of_fetch_error (State.fetch_mode_none (s := s.withDataLevels w b k) hr hs hp hm)]
  | some m =>
    have hfetch := State.fetch_busy hr hs hp hm
    have hfetch' := State.fetch_busy (s := s.withDataLevels w b k) hr hs hp hm
    cases hd : decode (.seq (sequencerWord .busy m s.rc)) with
    | error e =>
      rw [step, step, stepBy_of_undecoded hfetch hd, stepBy_of_undecoded hfetch' hd]
    | ok i =>
      rw [step, step, stepBy_of_fetch hfetch hd, stepBy_of_fetch hfetch' hd,
        exec_withDataLevels_of_busy w b k hp, mapNext_registers_advanceHost_withDataLevels]

/-- R217: a step that is no command step ends the same way, with the same ten registers, whatever stands
on the data lines. -/
theorem step_withDataLevels (h : s.ports.rst = true ∨ s.ports.start = false) :
    mapNext State.registers (step (s.withDataLevels w b k)) = mapNext State.registers (step s) := by
  cases hr : s.ports.rst with
  | true =>
    rw [step_of_reset hr, step_of_reset (s := s.withDataLevels w b k) hr]
    rfl
  | false =>
    have hs : s.ports.start = false := by simpa [hr] using h
    by_cases hp : s.phase = .busy
    · exact step_withDataLevels_of_busy w b k hr hs hp
    · rw [step_of_nothing_selected hr hs hp,
        step_of_nothing_selected (s := s.withDataLevels w b k) hr hs hp]
      rfl

end DataLevels

section EqualOutcomes

variable {o o' : Host.Outcome State Fault Refusal} {f : State → State}

theorem exists_next_of_mapNext_eq {t : State} (h : mapNext f o' = mapNext f o) (ho : o = .next t) :
    ∃ t', o' = .next t' ∧ f t' = f t := by
  rw [ho, mapNext_next] at h
  obtain ⟨t', ht', heq⟩ := mapNext_eq_next h
  exact ⟨t', ht', heq.symm⟩

theorem eq_fault_of_mapNext_eq {e : Fault} (h : mapNext f o' = mapNext f o) (ho : o = .fault e) :
    o' = .fault e := by
  subst ho
  cases o' with
  | next t => cases h
  | fault e' => exact h
  | refused e' => cases h

theorem eq_refused_of_mapNext_eq {e : Refusal} (h : mapNext f o' = mapNext f o)
    (ho : o = .refused e) : o' = .refused e := by
  subst ho
  cases o' with
  | next t => cases h
  | fault e' => cases h
  | refused e' => exact h

end EqualOutcomes

/-- Settles O30: reset and the host's part write nothing from the data lines, and in BUSY the only
operations that sample them are not taken. -/
theorem inputsAreSampledInTheCommandStepOnly : Obligations.InputsAreSampledInTheCommandStepOnly :=
  fun _ w b k h =>
    have hsame := step_withDataLevels w b k h
    ⟨fun _ => exists_next_of_mapNext_eq hsame, fun _ => eq_fault_of_mapNext_eq hsame,
      fun _ => eq_refused_of_mapNext_eq hsame⟩

end Sys2Proof.Machine
